-- ==== Sys2Proof/Word.lean ====
section
/-! DEFINITION. The word types of the MLF wire protocol. All values are unsigned (00_scope R10). -/

namespace Sys2Proof

/-- A byte is 8 bits (00_scope R10). -/
abbrev Byte := BitVec 8

/-- The width of the `data_size` field (30_encoding R74). -/
abbrev Half := BitVec 16

/-- The width of the header magic, checksum and footer magic fields (30_encoding R74). -/
abbrev Word := BitVec 32

end Sys2Proof
end

