-- ==== Sys2Proof/Config.lean ====
section
/-! DEFINITION. The constants the source fixes (00_scope R7), the command count (R8) and the
parameters it leaves to the deployment (R9). The parameters are one plain structure which the machine
state carries and no event writes, so that a statement about every state is a statement about every
configuration (log 1). -/

namespace Sys2Proof

/-- Header magic of a Request (00_scope R7). -/
def reqMagic : Word := 0x004D4C46#32

/-- Header magic of a Response (00_scope R7). -/
def respMagic : Word := 0x00524C4D#32

/-- Magic that closes every frame (00_scope R7). -/
def footerMagic : Word := 0x7364656C#32

/-- Largest legal `data_size`, in bytes (00_scope R7). -/
def maxDataSize : Nat := 2048

/-- Milliseconds of inactivity after which a partial frame is discarded (00_scope R7). -/
def staleTimeout : Nat := 1000

/-- `MAGIC_SIZE`: bytes of each magic (00_scope R7). -/
def magicSize : Nat := 4

/-- `SELECTOR_SIZE`: bytes of the selector (00_scope R7). -/
def selectorSize : Nat := 1

/-- `SIZE_SIZE`: bytes of `data_size` (00_scope R7). -/
def sizeSize : Nat := 2

/-- `HEADER_SIZE` (00_scope R8). -/
def headerSize : Nat := magicSize + selectorSize + sizeSize

/-- `CMD_MAX`: the count of command ids and the first illegal one (00_scope R8, 90_conflicts C1). It
is the length of the dispatch tables, hence reducible. -/
abbrev cmdMax : Nat := 9

/-- `LEN_W`: bits needed to hold 0..`CAPACITY`, 2063 < 4096 (00_scope R8). -/
abbrev lenW : Nat := 12

/-- A count of bytes in the reassembly buffer or the mailbox, `LEN_W` bits (10_state R22, R29). -/
abbrev Count := BitVec lenW

/-- `CHECKSUM_MODE` (41_checksum R133). -/
inductive ChecksumMode where
  /-- The field is not on the wire. -/
  | absent
  /-- The field is on the wire, a mismatch is logged and the frame accepted. -/
  | ignored
  /-- The field is on the wire, a mismatch rejects the frame. The default. -/
  | enforced
deriving DecidableEq, Repr

/-- `WIRE_ORDER` (00_scope R9, R11). -/
inductive WireOrder where
  /-- The default: the first byte on the wire is the least significant. -/
  | littleEndian
  /-- The byte indices are reversed in the four assembly functions. -/
  | bigEndian
deriving DecidableEq, Repr

/-- Which `CHECKSUM_FN` the build has. The source never names the algorithm, so the deployment's
function is uninterpreted (41_checksum R136, 93 U2). -/
inductive ChecksumFn where
  /-- The deployment's function, `Config.deploymentChecksum`, of which nothing is assumed. -/
  | deployment
  /-- The reference instantiation of 41_checksum R136, which the spec allows only to replay the mode E
  bytes of 95_test_vectors (PRESUMED there: general knowledge, not in the source; log 3). -/
  | reference
  /-- `CHECKSUM_FN(s) = 0` for all `s`, the function of vector V27 of 95_test_vectors (log 3). -/
  | zero
deriving DecidableEq, Repr

/-- The static configuration of one context (00_scope R9, 10_state R32). -/
structure Config where
  /-- `CHECKSUM_MODE`. -/
  checksumMode : ChecksumMode
  /-- `CHECKSUM_FN`. -/
  checksumFn : ChecksumFn
  /-- `WIRE_ORDER`. -/
  wireOrder : WireOrder
  /-- `TICK_W`, width of the tick input in bits. -/
  tickW : Nat
  /-- `TX_RETRY_MAX`, re-attempts after the first write, 6..30. -/
  txRetryMax : Nat
  /-- `TX_RETRY_DELAY_MS`, delay between write attempts (93 U4: a parameter, default 10). -/
  txRetryDelayMs : Nat
  /-- `RESP_BUF_CAP`, 0..`MAX_DATA_SIZE`. -/
  respBufCap : Nat
  /-- `FORWARD_EN`. -/
  forwardEn : Bool
  /-- `RX_FIFO_DEPTH`, at least 1. -/
  rxFifoDepth : Nat
deriving DecidableEq, Repr

/-- The defaults of 00_scope R9, which the spec uses in its test vectors. -/
def Config.default : Config where
  checksumMode := .enforced
  checksumFn := .deployment
  wireOrder := .littleEndian
  tickW := 32
  txRetryMax := 6
  txRetryDelayMs := 10
  respBufCap := 2048
  forwardEn := true
  rxFifoDepth := 64

/-- The ranges 00_scope R9 gives the parameters. They bind the deployment and no event tests them
(log 16). -/
abbrev Config.wf (c : Config) : Prop :=
  6 ≤ c.txRetryMax ∧ c.txRetryMax ≤ 30 ∧ c.respBufCap ≤ maxDataSize ∧ 1 ≤ c.rxFifoDepth

/-- The deployment's `CHECKSUM_FN`: a total function from a byte sequence to a 32-bit value, of which
the block assumes only that it depends on its argument alone (41_checksum R136). It has no body: it is
a free value (log 3). -/
opaque Config.deploymentChecksum : List Byte → Word

/-- The protocol identity string of 00_scope R2, a label of the spec. -/
def Config.identity (c : Config) : String :=
  "MLF/cerber-os-MegaLeaf/ck=" ++
    (match c.checksumMode with
      | .absent => "Absent"
      | .ignored => "Ignored"
      | .enforced => "Enforced") ++
    "/fwd=" ++ (if c.forwardEn then "1" else "0")

end Sys2Proof
end

