-- ==== Sys2Proof/Syntax.lean ====
section
/-! DEFINITION. The instruction set: one constructor for each row of spec/opcode_table.json, that is,
one for each kind of frame that can arrive on the wire (00_scope R2, 30_encoding R77 to R79). -/

namespace Sys2Proof

/-- What the header magic says a frame is (30_encoding R72). -/
inductive Direction where
  | request
  | response
deriving DecidableEq, Repr

/-- The operands of a frame after its selector. A frame ends in one of two ways (40_reassembler R103,
R104), so there are two operand forms. -/
inductive Tail where
  /-- All `7 + n + FOOTER_SIZE` bytes are there: the payload (`data_size` is its length), the checksum
  field (`none` in a build without one, 30_encoding R70) and the four bytes at the footer position. -/
  | complete (payload : List Byte) (checksum : Option Word) (footer : Word)
  /-- A header whose `data_size` exceeds `MAX_DATA_SIZE`: it is judged at its seventh byte, and no
  payload is ever taken (40_reassembler R103, R111). -/
  | oversize (size : Half)
deriving DecidableEq, Repr

/-- One frame on the wire. -/
inductive Instr where
  /-- `TurnOff`, command id 0 (43_commands R171). -/
  | turnOff (tail : Tail)
  /-- `TurnOn`, command id 1 (43_commands R172). -/
  | turnOn (tail : Tail)
  /-- `GetInfo`, command id 2 (43_commands R173). -/
  | getInfo (tail : Tail)
  /-- `SetBrightness`, command id 3 (43_commands R174). -/
  | setBrightness (tail : Tail)
  /-- `SetColor`, command id 4 (43_commands R175). -/
  | setColor (tail : Tail)
  /-- `SetEffect`, command id 5 (43_commands R176). -/
  | setEffect (tail : Tail)
  /-- `GetBrightness`, command id 6 (43_commands R177). -/
  | getBrightness (tail : Tail)
  /-- `GetEffect`, command id 7 (43_commands R178). -/
  | getEffect (tail : Tail)
  /-- `GetOnState`, command id 8 (43_commands R179). -/
  | getOnState (tail : Tail)
  /-- `REQ.illegal`: a Request header with selector 9..255, judged at its seventh byte whatever its
  `data_size` is (60_exceptions R221). -/
  | reqIllegal (selector : Byte) (size : Half)
  /-- `RESP.Ok`, status 0 (43_commands R181). -/
  | respOk (tail : Tail)
  /-- `RESP.Ping`, status 1 (43_commands R182). -/
  | respPing (tail : Tail)
  /-- `RESP.InvalidCommand`, status 128 (43_commands R183). -/
  | respInvalidCommand (tail : Tail)
  /-- `RESP.InvalidHeader`, status 129 (43_commands R184). -/
  | respInvalidHeader (tail : Tail)
  /-- `RESP.InvalidData`, status 130 (43_commands R185). -/
  | respInvalidData (tail : Tail)
  /-- `RESP.InvalidFooter`, status 131 (43_commands R186). -/
  | respInvalidFooter (tail : Tail)
  /-- `RESP.NotReady`, status 132 (43_commands R187). -/
  | respNotReady (tail : Tail)
  /-- `RESP.Timeout`, status 133 (43_commands R188). -/
  | respTimeout (tail : Tail)
  /-- `RESP.DataTooLarge`, status 134 (43_commands R189). -/
  | respDataTooLarge (tail : Tail)
  /-- `RESP.unnamed`, status 2..127 or 135..255 (43_commands R190). -/
  | respUnnamed (status : Byte) (tail : Tail)
deriving DecidableEq, Repr

end Sys2Proof
end

