-- ==== Sys2Proof/WellFormed.lean ====
section
/-! DEFINITION. Which terms of Instr stand for a frame on the wire of a given build. -/

namespace Sys2Proof

/-- The build puts a checksum field in every frame (30_encoding R70). -/
def Config.hasChecksum (c : Config) : Bool :=
  match c.checksumMode with
  | .absent => false
  | .ignored => true
  | .enforced => true

/-- The operands fit the encoding: a complete frame carries at most `MAX_DATA_SIZE` payload bytes and a
checksum exactly when the build has one, and the oversize form is for a `data_size` above the bound. -/
def Tail.fits (c : Config) : Tail → Bool
  | .complete payload checksum _ =>
      decide (payload.length ≤ maxDataSize) && (checksum.isSome == c.hasChecksum)
  | .oversize size => decide (maxDataSize < size.toNat)

/-- The status codes the source names (30_encoding R78). -/
def statusNamed (status : Byte) : Bool :=
  decide (status.toNat ≤ 1) || (decide (128 ≤ status.toNat) && decide (status.toNat ≤ 134))

/-- The term is the one that a frame on the wire decodes to: its operands fit, `REQ.illegal` has an
illegal selector, `RESP.unnamed` an unnamed status. A frame with a wrong footer or checksum is still a
frame on the wire: the receiver's tests of them are part of the instruction's meaning. -/
def Instr.wellFormed (c : Config) : Instr → Bool
  | .turnOff t | .turnOn t | .getInfo t | .setBrightness t | .setColor t | .setEffect t
  | .getBrightness t | .getEffect t | .getOnState t => t.fits c
  | .reqIllegal selector _ => decide (cmdMax ≤ selector.toNat)
  | .respOk t | .respPing t | .respInvalidCommand t | .respInvalidHeader t | .respInvalidData t
  | .respInvalidFooter t | .respNotReady t | .respTimeout t | .respDataTooLarge t => t.fits c
  | .respUnnamed status t => !statusNamed status && t.fits c

end Sys2Proof
end

