-- ==== Sys2Proof/Decode.lean ====
section
/-! DEFINITION. From the bytes of the wire to an instruction, and back. The decoder is total and
rejects by name; the encoder follows the same layout (30_encoding R70 to R75, 20_memory R51). The
byte-order helpers of 00_scope R11 stand here, because both use them. -/

namespace Sys2Proof

/-! ### Sizes derived from the build (00_scope R8) -/

/-- `CHECKSUM_SIZE`. -/
def checksumSize (c : Config) : Nat := if c.hasChecksum then 4 else 0

/-- `FOOTER_SIZE`. -/
def footerSize (c : Config) : Nat := checksumSize c + magicSize

/-- `CAPACITY`. -/
def capacity (c : Config) : Nat := maxDataSize + headerSize + footerSize c

/-! ### Multi-byte assembly (00_scope R11) -/

/-- `s[0] + 256*s[1]` of 00_scope R11. -/
def joinHalf (b0 b1 : Byte) : Half := BitVec.ofNat 16 (b0.toNat + 256 * b1.toNat)

/-- `s[0] + 256*s[1] + 65536*s[2] + 16777216*s[3]` of 00_scope R11. -/
def joinWord (b0 b1 b2 b3 : Byte) : Word :=
  BitVec.ofNat 32 (b0.toNat + 256 * b1.toNat + 65536 * b2.toNat + 16777216 * b3.toNat)

/-- `LE16`, with the byte indices reversed in the big-endian build. -/
def half16 (o : WireOrder) (s : List Byte) : Half :=
  match o with
  | .littleEndian => joinHalf (s.getD 0 0#8) (s.getD 1 0#8)
  | .bigEndian => joinHalf (s.getD 1 0#8) (s.getD 0 0#8)

/-- `LE32`, with the byte indices reversed in the big-endian build. -/
def word32 (o : WireOrder) (s : List Byte) : Word :=
  match o with
  | .littleEndian => joinWord (s.getD 0 0#8) (s.getD 1 0#8) (s.getD 2 0#8) (s.getD 3 0#8)
  | .bigEndian => joinWord (s.getD 3 0#8) (s.getD 2 0#8) (s.getD 1 0#8) (s.getD 0 0#8)

/-- Byte `i` of a number, counted from the least significant. -/
def byteOf (v i : Nat) : Byte := BitVec.ofNat 8 (v / 256 ^ i)

/-- `bytes16`, the inverse of `LE16`. -/
def bytes16 (o : WireOrder) (v : Half) : List Byte :=
  match o with
  | .littleEndian => [byteOf v.toNat 0, byteOf v.toNat 1]
  | .bigEndian => [byteOf v.toNat 1, byteOf v.toNat 0]

/-- `bytes32`, the inverse of `LE32`. -/
def bytes32 (o : WireOrder) (v : Word) : List Byte :=
  match o with
  | .littleEndian => [byteOf v.toNat 0, byteOf v.toNat 1, byteOf v.toNat 2, byteOf v.toNat 3]
  | .bigEndian => [byteOf v.toNat 3, byteOf v.toNat 2, byteOf v.toNat 1, byteOf v.toNat 0]

/-! ### The header (30_encoding R74, 40_reassembler R103) -/

/-- The header magic of a direction (30_encoding R71, R72). -/
def Direction.magic : Direction → Word
  | .request => reqMagic
  | .response => respMagic

/-- The verdict on the seven header bytes. -/
inductive HeaderVerdict where
  /-- The magic is neither of the two. -/
  | badMagic
  /-- A Request whose selector is `CMD_MAX` or above. -/
  | badCommand (selector : Byte) (size : Half)
  /-- A `data_size` above `MAX_DATA_SIZE`. -/
  | tooLarge (dir : Direction) (selector : Byte) (size : Half)
  /-- All tests passed. -/
  | legal (dir : Direction) (selector : Byte) (size : Half)
deriving DecidableEq, Repr

/-- The last of the three tests: the `data_size` bound, in either direction (40_reassembler R103). -/
def judgeSize (dir : Direction) (selector : Byte) (size : Half) : HeaderVerdict :=
  if maxDataSize < size.toNat then .tooLarge dir selector size else .legal dir selector size

/-- The three tests of `HeaderCheck` on `buf[0..6]`, in the order 40_reassembler R103 makes them: magic,
command range (Requests only), `data_size` (60_exceptions R231, priorities 3 to 5). -/
def judgeHeader (c : Config) (hdr : List Byte) : HeaderVerdict :=
  let magic := word32 c.wireOrder hdr
  let selector := hdr.getD 4 0#8
  let size := half16 c.wireOrder (hdr.drop 5)
  if magic = reqMagic then
    if cmdMax ≤ selector.toNat then .badCommand selector size
    else judgeSize .request selector size
  else if magic = respMagic then judgeSize .response selector size
  else .badMagic

/-! ### Selectors (30_encoding R77, R78) -/

/-- The Request of a command id (30_encoding R77). -/
def requestInstr (selector : Byte) (tail : Tail) : Instr :=
  if selector = 0#8 then .turnOff tail
  else if selector = 1#8 then .turnOn tail
  else if selector = 2#8 then .getInfo tail
  else if selector = 3#8 then .setBrightness tail
  else if selector = 4#8 then .setColor tail
  else if selector = 5#8 then .setEffect tail
  else if selector = 6#8 then .getBrightness tail
  else if selector = 7#8 then .getEffect tail
  else if selector = 8#8 then .getOnState tail
  else .reqIllegal selector
    (match tail with
      | .complete payload _ _ => BitVec.ofNat 16 payload.length
      | .oversize size => size)

/-- The Response of a status code (30_encoding R78). -/
def responseInstr (status : Byte) (tail : Tail) : Instr :=
  if status = 0#8 then .respOk tail
  else if status = 1#8 then .respPing tail
  else if status = 128#8 then .respInvalidCommand tail
  else if status = 129#8 then .respInvalidHeader tail
  else if status = 130#8 then .respInvalidData tail
  else if status = 131#8 then .respInvalidFooter tail
  else if status = 132#8 then .respNotReady tail
  else if status = 133#8 then .respTimeout tail
  else if status = 134#8 then .respDataTooLarge tail
  else .respUnnamed status tail

/-- The instruction of a direction, a selector and the operands after it. -/
def instrOf (dir : Direction) (selector : Byte) (tail : Tail) : Instr :=
  match dir with
  | .request => requestInstr selector tail
  | .response => responseInstr selector tail

/-- The direction and selector of an instruction (30_encoding R71, R72). -/
def Instr.head : Instr → Direction × Byte
  | .turnOff _ => (.request, 0#8)
  | .turnOn _ => (.request, 1#8)
  | .getInfo _ => (.request, 2#8)
  | .setBrightness _ => (.request, 3#8)
  | .setColor _ => (.request, 4#8)
  | .setEffect _ => (.request, 5#8)
  | .getBrightness _ => (.request, 6#8)
  | .getEffect _ => (.request, 7#8)
  | .getOnState _ => (.request, 8#8)
  | .reqIllegal selector _ => (.request, selector)
  | .respOk _ => (.response, 0#8)
  | .respPing _ => (.response, 1#8)
  | .respInvalidCommand _ => (.response, 128#8)
  | .respInvalidHeader _ => (.response, 129#8)
  | .respInvalidData _ => (.response, 130#8)
  | .respInvalidFooter _ => (.response, 131#8)
  | .respNotReady _ => (.response, 132#8)
  | .respTimeout _ => (.response, 133#8)
  | .respDataTooLarge _ => (.response, 134#8)
  | .respUnnamed status _ => (.response, status)

/-- The operands after the selector; for `REQ.illegal` only `data_size` has arrived. -/
def Instr.tail : Instr → Tail
  | .turnOff t | .turnOn t | .getInfo t | .setBrightness t | .setColor t | .setEffect t
  | .getBrightness t | .getEffect t | .getOnState t => t
  | .reqIllegal _ size => .oversize size
  | .respOk t | .respPing t | .respInvalidCommand t | .respInvalidHeader t | .respInvalidData t
  | .respInvalidFooter t | .respNotReady t | .respTimeout t | .respDataTooLarge t => t
  | .respUnnamed _ t => t

/-! ### The decoder -/

/-- Why bytes are no instruction. -/
inductive Reject where
  /-- Fewer than seven bytes: a header is never judged before all of it is present (R103). -/
  | shortHeader
  /-- The header magic is neither `REQ_MAGIC` nor `RESP_MAGIC`: `InvalidHeader` (R103). -/
  | badMagic
  /-- A legal header with fewer than `data_size + FOOTER_SIZE` bytes after it (R104). -/
  | shortBody
deriving DecidableEq, Repr

/-- The total length of a frame with payload length `n` (30_encoding R75). -/
def frameLength (c : Config) (n : Nat) : Nat := headerSize + n + footerSize c

/-- The operands of a complete frame of payload length `n`, read at the offsets of 20_memory R51. -/
def completeTail (c : Config) (n : Nat) (bytes : List Byte) : Tail :=
  .complete ((bytes.drop headerSize).take n)
    (if c.hasChecksum then some (word32 c.wireOrder (bytes.drop (headerSize + n))) else none)
    (word32 c.wireOrder (bytes.drop (headerSize + n + checksumSize c)))

/-- The first instruction of a byte sequence and the bytes after it. An illegal command and an
oversize header take the seven header bytes only; every other frame takes the length its header
dictates, found by counting and never by searching (30_encoding R76). -/
def decode (c : Config) (bytes : List Byte) : Except Reject (Instr × List Byte) :=
  if bytes.length < headerSize then .error .shortHeader
  else
    match judgeHeader c bytes with
    | .badMagic => .error .badMagic
    | .badCommand selector size => .ok (.reqIllegal selector size, bytes.drop headerSize)
    | .tooLarge dir selector size =>
        .ok (instrOf dir selector (.oversize size), bytes.drop headerSize)
    | .legal dir selector size =>
        if bytes.length < frameLength c size.toNat then .error .shortBody
        else .ok (instrOf dir selector (completeTail c size.toNat bytes),
          bytes.drop (frameLength c size.toNat))

/-! ### The encoder -/

/-- The seven header bytes (30_encoding R70). -/
def headerBytes (c : Config) (magic : Word) (selector : Byte) (size : Half) : List Byte :=
  bytes32 c.wireOrder magic ++ [selector] ++ bytes16 c.wireOrder size

/-- The bytes a checksum covers: header and payload (41_checksum R131). -/
def coveredBytes (c : Config) (magic : Word) (selector : Byte) (payload : List Byte) : List Byte :=
  headerBytes c magic selector (BitVec.ofNat 16 payload.length) ++ payload

/-- The bytes after the payload: the checksum field when there is one, and the footer
(30_encoding R70). -/
def footerBytes (c : Config) (checksum : Option Word) (footer : Word) : List Byte :=
  (match checksum with
    | none => []
    | some v => bytes32 c.wireOrder v) ++ bytes32 c.wireOrder footer

/-- The wire bytes of a well-formed instruction (30_encoding R71, R72). -/
def encode (c : Config) (i : Instr) : List Byte :=
  match i.tail with
  | .complete payload checksum footer =>
      coveredBytes c i.head.1.magic i.head.2 payload ++ footerBytes c checksum footer
  | .oversize size => headerBytes c i.head.1.magic i.head.2 size

/-! ### The opcode table (30_encoding R81) -/

/-- A row of the table: its mask and match over the 40-bit value of the first five wire bytes. -/
structure TableRow where
  mask : Nat
  value : Nat
deriving DecidableEq, Repr

/-- The 40-bit value `b0 + b1*2^8 + ... + b4*2^32` of the first five wire bytes (30_encoding R81). -/
def tableKey (bytes : List Byte) : Nat :=
  (bytes.getD 0 0#8).toNat + 2 ^ 8 * (bytes.getD 1 0#8).toNat + 2 ^ 16 * (bytes.getD 2 0#8).toNat
    + 2 ^ 24 * (bytes.getD 3 0#8).toNat + 2 ^ 32 * (bytes.getD 4 0#8).toNat

/-- A five-byte key matches a row when `(w AND mask) = match` (30_encoding R81). -/
def TableRow.covers (r : TableRow) (w : Nat) : Bool := (w &&& r.mask) == r.value

/-- The table's row of a constructor, for `WIRE_ORDER = LittleEndian` (spec/opcode_table.json). -/
def Instr.row : Instr → TableRow
  | .turnOff _ => ⟨0xFFFFFFFFFF, 0x00004D4C46⟩
  | .turnOn _ => ⟨0xFFFFFFFFFF, 0x01004D4C46⟩
  | .getInfo _ => ⟨0xFFFFFFFFFF, 0x02004D4C46⟩
  | .setBrightness _ => ⟨0xFFFFFFFFFF, 0x03004D4C46⟩
  | .setColor _ => ⟨0xFFFFFFFFFF, 0x04004D4C46⟩
  | .setEffect _ => ⟨0xFFFFFFFFFF, 0x05004D4C46⟩
  | .getBrightness _ => ⟨0xFFFFFFFFFF, 0x06004D4C46⟩
  | .getEffect _ => ⟨0xFFFFFFFFFF, 0x07004D4C46⟩
  | .getOnState _ => ⟨0xFFFFFFFFFF, 0x08004D4C46⟩
  | .reqIllegal _ _ => ⟨0x00FFFFFFFF, 0x00004D4C46⟩
  | .respOk _ => ⟨0xFFFFFFFFFF, 0x0000524C4D⟩
  | .respPing _ => ⟨0xFFFFFFFFFF, 0x0100524C4D⟩
  | .respInvalidCommand _ => ⟨0xFFFFFFFFFF, 0x8000524C4D⟩
  | .respInvalidHeader _ => ⟨0xFFFFFFFFFF, 0x8100524C4D⟩
  | .respInvalidData _ => ⟨0xFFFFFFFFFF, 0x8200524C4D⟩
  | .respInvalidFooter _ => ⟨0xFFFFFFFFFF, 0x8300524C4D⟩
  | .respNotReady _ => ⟨0xFFFFFFFFFF, 0x8400524C4D⟩
  | .respTimeout _ => ⟨0xFFFFFFFFFF, 0x8500524C4D⟩
  | .respDataTooLarge _ => ⟨0xFFFFFFFFFF, 0x8600524C4D⟩
  | .respUnnamed _ _ => ⟨0x00FFFFFFFF, 0x0000524C4D⟩

/-- The full-mask rows of the table: the nine command ids and the nine named status codes. -/
def fullMaskRows : List TableRow :=
  let t := Tail.oversize 0#16
  [Instr.row (.turnOff t), Instr.row (.turnOn t), Instr.row (.getInfo t),
   Instr.row (.setBrightness t), Instr.row (.setColor t), Instr.row (.setEffect t),
   Instr.row (.getBrightness t), Instr.row (.getEffect t), Instr.row (.getOnState t),
   Instr.row (.respOk t), Instr.row (.respPing t), Instr.row (.respInvalidCommand t),
   Instr.row (.respInvalidHeader t), Instr.row (.respInvalidData t),
   Instr.row (.respInvalidFooter t), Instr.row (.respNotReady t), Instr.row (.respTimeout t),
   Instr.row (.respDataTooLarge t)]

/-! ### The host's words -/

/-- The first `k` bytes of an instruction whose low `nbits` bits are `w` and whose other bits are 0,
first wire byte first (30_encoding R81). -/
def wordBytes (nbits w : Nat) : Nat → List Byte
  | 0 => []
  | k + 1 => byteOf (w % 2 ^ nbits) 0 :: wordBytes (nbits - 8) (w % 2 ^ nbits / 256) k

/-- How many bytes a frame takes before it is judged whole: the length its header dictates, or the
seven header bytes when the header is refused (40_reassembler R103, R104). -/
def judgedLength (c : Config) (hdr : List Byte) : Nat :=
  match judgeHeader c hdr with
  | .legal _ _ size => frameLength c size.toNat
  | _ => headerSize

/-- The bytes of the frame that such a word begins. -/
def tableWordBytes (c : Config) (nbits w : Nat) : List Byte :=
  wordBytes nbits w (judgedLength c (wordBytes nbits w headerSize))

/-- The instruction the decoder of the default build reads from such a word (log 21). -/
def decodeTableWord (nbits w : Nat) : Option Instr :=
  match decode Config.default (tableWordBytes Config.default nbits w) with
  | .ok (i, _) => some i
  | .error _ => none

end Sys2Proof
end

