-- ==== Sys2Proof/Machine/State.lean ====
section
/-! DEFINITION. The state of one context as plain data (10_state R20), its input and output events, the
reasons a step can stop, and the state after reset (10_state R44). -/

namespace Sys2Proof.Machine

/-- A byte store of the block, `buf` or `mbox_data` (20_memory R50), as pairs of an index and a byte in
one canonical form: indices strictly rising. An index that is not listed has no value: nothing has
written it (10_state R44, log 6). -/
abbrev Memory := List Host.Cell

/-- `HANDLER_ID`: an opaque token with equality only (00_scope R9, log 4). -/
structure HandlerId where
  token : Nat
deriving DecidableEq, Repr

/-- `CTX_ID`: an opaque token with equality only (00_scope R9, log 4). -/
structure CtxId where
  token : Nat
deriving DecidableEq, Repr

/-- What a handler or a forward target answers (42_mailbox_dispatch R147, R150). -/
inductive CallAnswer where
  /-- `Ok(p)`, a payload of any length. -/
  | ok (payload : List Byte)
  /-- `Err(c)`, any 8-bit status code. -/
  | err (code : Byte)
deriving DecidableEq, Repr

/-- What the transport answers to one write attempt (44_transmit R202). -/
inductive WriteAnswer where
  | ok
  | busy
  | err
deriving DecidableEq, Repr

/-- An input event (30_encoding R90), or an operation of the receive FIFO at the block's edge
(20_memory R61). -/
inductive Event where
  /-- `RESET` (70_reset_and_hazards R260). -/
  | reset
  /-- `REG_HANDLER(cmd, hid)` (42_mailbox_dispatch R152). -/
  | regHandler (cmd : Byte) (hid : HandlerId)
  /-- `REG_FORWARD(cmd, target)` (42_mailbox_dispatch R153). -/
  | regForward (cmd : Byte) (target : CtxId)
  /-- `RX_BYTE(b, t)` (40_reassembler R100). -/
  | rxByte (b : Byte) (t : Nat)
  /-- `POLL` (42_mailbox_dispatch R143), with the environment's answer to the one call it may make
  (00_scope R13); a `POLL` that makes no call does not consume it. -/
  | poll (answer : CallAnswer)
  /-- `PUSH(b)` by the transport (20_memory R61). -/
  | push (b : Byte)
  /-- `POP` by the block at tick `t` (20_memory R61). -/
  | pop (t : Nat)
deriving DecidableEq, Repr

/-- The five framing errors (60_exceptions R220, R232). -/
inductive FrameError where
  | invalidCommand
  | invalidHeader
  | invalidData
  | invalidFooter
  | dataTooLarge
deriving DecidableEq, Repr

/-- The kinds of a `LOG` output event (10_state R41). -/
inductive LogKind where
  | mailboxDrop
  | txGiveUp
  | txError
  | rxFifoOverflow
  | frameError (code : Byte)
  | staleDiscard
  | checksumIgnored
  | cfgRefused
deriving DecidableEq, Repr

/-- The outcome an `RX_BYTE` reports (40_reassembler R100). -/
inductive RxOutcome where
  | more
  | frame (dir : Direction) (selector : Byte) (payload : List Byte)
  | error (code : Byte)
deriving DecidableEq, Repr

/-- An output event (10_state R40). -/
inductive OutEvent where
  | txAttempt (frame : List Byte)
  | txDelay (ms : Nat)
  | handlerCall (hid : HandlerId) (cmd : Byte) (payload : List Byte)
  | fwdCall (target : CtxId) (cmd : Byte) (payload : List Byte)
  | respDeliver (status : Byte) (payload : List Byte)
  | rxOutcome (o : RxOutcome)
  | log (kind : LogKind)
deriving DecidableEq, Repr

/-- One context (10_state R20), the receive FIFO at its edge (20_memory R61), its static configuration
(10_state R32) and the model's own input fields (log 7, 8). -/
structure State where
  /-- The static configuration; no event writes it (10_state R32, log 1). -/
  cfg : Config
  /-- `buf`, the reassembly buffer (10_state R21). -/
  buf : Memory
  /-- `len`, the fill position, `LEN_W` = 12 bits (10_state R22, R24). -/
  len : Count
  /-- `header_validated` (10_state R23). -/
  headerValidated : Bool
  /-- `last_activity`, `TICK_W` bits (10_state R26; log 13). -/
  lastActivity : Nat
  /-- `mbox_full` (10_state R28). -/
  mboxFull : Bool
  /-- `mbox_cmd` (10_state R29). -/
  mboxCmd : Byte
  /-- `mbox_len`, 12 bits (10_state R29). -/
  mboxLen : Count
  /-- `mbox_data` (10_state R29). -/
  mboxData : Memory
  /-- `handler_valid[c]` (10_state R30). -/
  handlerValid : Vector Bool cmdMax
  /-- `handler_id[c]` (10_state R30). -/
  handlerId : Vector HandlerId cmdMax
  /-- `fwd_valid[c]` (10_state R31). -/
  fwdValid : Vector Bool cmdMax
  /-- `fwd_target[c]` (10_state R31). -/
  fwdTarget : Vector CtxId cmdMax
  /-- `out`, the output trace, oldest event first (10_state R40). -/
  out : List OutEvent
  /-- The receive FIFO, oldest byte first (20_memory R61, log 15). -/
  rxFifo : List Byte
  /-- The model's own: input events offered and not yet taken, oldest first (log 7). -/
  inputs : List Event
  /-- The model's own: the transport's answers to the write attempts to come; an attempt that finds
  none is answered `Ok` (00_scope R13, log 8). -/
  txAnswers : List WriteAnswer
deriving DecidableEq, Repr

/-- Why a step stops. The block itself never stops (60_exceptions R236): each of these marks a state
that the invariant of 10_state R34 excludes, so all four are SAFE. -/
inductive Fault where
  /-- Raised by a receive event that would read a cell of `buf` nothing has written: "a read of it is a
  model error" (10_state R44). Safe. -/
  | bufferUnwritten
  /-- Raised by a `POLL` that would read a cell of `mbox_data` nothing has written (10_state R44). Safe. -/
  | mailboxUnwritten
  /-- Raised by a `POLL` when `mbox_len` exceeds the 2048 cells of `mbox_data` (10_state R29), or when
  `mbox_cmd` is no index of the dispatch tables (10_state R30). Safe. -/
  | mailboxRange
  /-- Raised by a receive event that brings `len` to the length the header dictates and finds there,
  under `header_validated`, a magic that is neither of the two (10_state R23, R34 (c); log 11). Safe. -/
  | headerCorrupt
deriving DecidableEq, Repr

/-- Why a step is refused. -/
inductive Refusal where
  /-- Raised by exec for an instruction that has no meaning in the model. None is left, so no step
  answers with it. Safe. -/
  | notModelled (mnemonic : String)
deriving DecidableEq, Repr

/-- The outcome of an event. -/
abbrev Result := Host.Outcome State Fault Refusal

/-- A context created with configuration `c`, on which no event has been offered (10_state R44). The
values R44 leaves unspecified are zero (log 5), and no cell is written (log 6). -/
def State.created (c : Config) : State where
  cfg := c
  buf := []
  len := 0
  headerValidated := false
  lastActivity := 0
  mboxFull := false
  mboxCmd := 0#8
  mboxLen := 0
  mboxData := []
  handlerValid := Vector.replicate cmdMax false
  handlerId := Vector.replicate cmdMax ⟨0⟩
  fwdValid := Vector.replicate cmdMax false
  fwdTarget := Vector.replicate cmdMax ⟨0⟩
  out := []
  rxFifo := []
  inputs := []
  txAnswers := []

/-- The machine right after reset, with the default parameters of 00_scope R9 (log 2). -/
def State.reset : State := State.created Config.default

end Sys2Proof.Machine
end

