-- ==== Sys2Proof/Machine/Checksum.lean ====
section
/-! DEFINITION. The checksum validator and generator (41_checksum). -/

namespace Sys2Proof.Machine

/-- One bit of the reflected CRC-32 division (41_checksum R136, polynomial `0x04C11DB7`). -/
def crcBit (r : Word) : Word :=
  if r.getLsbD 0 then (r >>> 1) ^^^ 0xEDB88320#32 else r >>> 1

/-- One byte of the reflected CRC-32. -/
def crcByte (r : Word) (b : Byte) : Word :=
  crcBit (crcBit (crcBit (crcBit (crcBit (crcBit (crcBit (crcBit (r ^^^ b.setWidth 32))))))))

/-- The reference instantiation of `CHECKSUM_FN` (41_checksum R136), general knowledge in the spec and
PRESUMED here; it is not the default (log 3). -/
def referenceCrc32 (bytes : List Byte) : Word := ~~~ (bytes.foldl crcByte 0xFFFFFFFF#32)

/-- `CHECKSUM_FN` of the build (00_scope R9, 41_checksum R136). -/
def checksumOf (c : Config) (bytes : List Byte) : Word :=
  match c.checksumFn with
  | .deployment => Config.deploymentChecksum bytes
  | .reference => referenceCrc32 bytes
  | .zero => 0#32

/-- The result of `ChecksumCheck` (41_checksum R130). -/
inductive ChecksumResult where
  | notPresent
  | matched
  | mismatch
deriving DecidableEq, Repr

/-- `ChecksumCheck` on the covered bytes and the received field (41_checksum R130, R131). A frame
without its field never matches; the decoder makes none in a build that has the field (log 10). -/
def checksumCheck (c : Config) (covered : List Byte) (received : Option Word) : ChecksumResult :=
  match c.checksumMode with
  | .absent => .notPresent
  | .ignored | .enforced => if received = some (checksumOf c covered) then .matched else .mismatch

/-- The checksum field of a frame the block sends (41_checksum R135). -/
def generatedChecksum (c : Config) (covered : List Byte) : Option Word :=
  if c.hasChecksum then some (checksumOf c covered) else none

end Sys2Proof.Machine
end

