-- ==== Sys2Proof/Machine/Ops.lean ====
section
/-! DEFINITION. The named operations over the stores and registers, `Serialize` and `SEND_RESPONSE`
(44_transmit), and the frame-error sequence, this block's exception entry and return
(60_exceptions R232, R235). -/

namespace Sys2Proof.Machine

/-! ### Byte stores (20_memory R50, R54) -/

/-- The canonical form: indices strictly rising. -/
abbrev Memory.wf (m : Memory) : Prop := m.Pairwise (fun x y => x.1 < y.1)

/-- The byte at an index; `none` when nothing has written it. -/
def Memory.read : Memory → Nat → Option Byte
  | [], _ => none
  | (k, v) :: m, a => if a = k then some v else Memory.read m a

/-- `buf[a] <- b` of 00_scope R12. -/
def Memory.write : Memory → Nat → Byte → Memory
  | [], a, b => [(a, b)]
  | (k, v) :: m, a, b =>
      if a < k then (a, b) :: (k, v) :: m
      else if a = k then (a, b) :: m
      else (k, v) :: Memory.write m a b

/-- `MemRead(a, n)` of 00_scope R12; `none` when one of the cells was never written. -/
def Memory.readBytes (m : Memory) (a : Nat) : Nat → Option (List Byte)
  | 0 => some []
  | n + 1 =>
      match m.read a, Memory.readBytes m (a + 1) n with
      | some b, some bs => some (b :: bs)
      | _, _ => none

/-- `MemWrite(a, |bs|, bs)` of 00_scope R12. -/
def Memory.writeBytes (m : Memory) (a : Nat) : List Byte → Memory
  | [] => m
  | b :: bs => Memory.writeBytes (m.write a b) (a + 1) bs

/-- The first `n` bytes of the reassembly buffer. -/
def State.bufBytes (s : State) (n : Nat) : Except Fault (List Byte) :=
  match s.buf.readBytes 0 n with
  | some bytes => .ok bytes
  | none => .error .bufferUnwritten

/-- The payload in the mailbox, `mbox_data[0 .. mbox_len-1]` (42_mailbox_dispatch R143). -/
def State.mailboxBytes (s : State) : Except Fault (List Byte) :=
  if maxDataSize < s.mboxLen.toNat then .error .mailboxRange
  else
    match s.mboxData.readBytes 0 s.mboxLen.toNat with
    | some bytes => .ok bytes
    | none => .error .mailboxUnwritten

/-! ### Register updates -/

/-- `emit`: append output events to the trace (00_scope R12, 10_state R40). -/
def State.emit (s : State) (es : List OutEvent) : State := { s with out := s.out ++ es }

/-- "Clear the buffer": exactly `len <- 0; header_validated <- false` (40_reassembler R107). -/
def State.clearBuffer (s : State) : State := { s with len := 0, headerValidated := false }

/-- `buf[len] <- b; len <- len + 1` (40_reassembler R102), in `LEN_W` bits. -/
def State.storeByte (s : State) (b : Byte) : State :=
  { s with buf := s.buf.write s.len.toNat b, len := s.len + 1 }

/-- `header_validated <- true` (40_reassembler R103). -/
def State.validateHeader (s : State) : State := { s with headerValidated := true }

/-- `last_activity <- t`, the `TICK_W` bits of the sample (40_reassembler R105, log 13). -/
def State.touch (s : State) (t : Nat) : State := { s with lastActivity := t % 2 ^ s.cfg.tickW }

/-- The writes of `SUBMIT` into an empty mailbox (42_mailbox_dispatch R140). -/
def State.fillMailbox (s : State) (cmd : Byte) (payload : List Byte) : State :=
  { s with
    mboxFull := true
    mboxCmd := cmd
    mboxLen := BitVec.ofNat lenW payload.length
    mboxData := s.mboxData.writeBytes 0 payload }

/-- `mbox_full <- false` (42_mailbox_dispatch R143). -/
def State.emptyMailbox (s : State) : State := { s with mboxFull := false }

/-- The writes of `REG_HANDLER` (42_mailbox_dispatch R152). -/
def State.setHandler (s : State) (cmd : Nat) (h : cmd < cmdMax) (hid : HandlerId) : State :=
  { s with
    handlerValid := s.handlerValid.set cmd true h
    handlerId := s.handlerId.set cmd hid h }

/-- The writes of `REG_FORWARD` (42_mailbox_dispatch R153). -/
def State.setForward (s : State) (cmd : Nat) (h : cmd < cmdMax) (target : CtxId) : State :=
  { s with
    fwdValid := s.fwdValid.set cmd true h
    fwdTarget := s.fwdTarget.set cmd target h }

/-- The receive FIFO's new content (20_memory R61). -/
def State.withFifo (s : State) (q : List Byte) : State := { s with rxFifo := q }

/-- The input events still to be taken. -/
def State.withInputs (s : State) (es : List Event) : State := { s with inputs := es }

/-! ### Building and sending a Response (44_transmit) -/

/-- `Serialize(magic, sel, payload)` (30_encoding R91). -/
def serialize (c : Config) (magic : Word) (selector : Byte) (payload : List Byte) : List Byte :=
  let covered := coveredBytes c magic selector payload
  covered ++ footerBytes c (generatedChecksum c covered) footerMagic

/-- `SerializeRequest` (30_encoding R91): what a peer's invoker produces; the block never sends it
(44_transmit R207). -/
def serializeRequest (c : Config) (cmd : Byte) (payload : List Byte) : List Byte :=
  serialize c reqMagic cmd payload

/-- `SerializeResponse` (30_encoding R91, 44_transmit R200). -/
def serializeResponse (c : Config) (status : Byte) (payload : List Byte) : List Byte :=
  serialize c respMagic status payload

/-- The write loop of `SEND_RESPONSE` (44_transmit R201) with `retries` re-attempts left: the output
events of the attempts, and the transport's answers not yet consumed. An attempt that finds no answer
listed is answered `Ok` (00_scope R13, log 8). -/
def writeLoop (delay : Nat) (frame : List Byte) : Nat → List WriteAnswer →
    List OutEvent × List WriteAnswer
  | _, [] => ([.txAttempt frame], [])
  | _, .ok :: answers => ([.txAttempt frame], answers)
  | _, .err :: answers => ([.txAttempt frame, .log .txError], answers)
  | 0, .busy :: answers => ([.txAttempt frame, .log .txGiveUp], answers)
  | retries + 1, .busy :: answers =>
      (.txAttempt frame :: .txDelay delay :: (writeLoop delay frame retries answers).1,
        (writeLoop delay frame retries answers).2)

/-- `SEND_RESPONSE(status, payload)` (44_transmit R201). -/
def sendResponse (status : Byte) (payload : List Byte) (s : State) : State :=
  let sent := writeLoop s.cfg.txRetryDelayMs (serializeResponse s.cfg status payload)
    s.cfg.txRetryMax s.txAnswers
  { s with out := s.out ++ sent.1, txAnswers := sent.2 }

/-! ### Taking an exception, and the return from one (60_exceptions R232, R235) -/

/-- The status code of a framing error (30_encoding R78). -/
def FrameError.code : FrameError → Byte
  | .invalidCommand => 128#8
  | .invalidHeader => 129#8
  | .invalidData => 130#8
  | .invalidFooter => 131#8
  | .dataTooLarge => 134#8

/-- The entry: clear the reassembler, log, send the error Response with an empty payload. Nothing is
saved, and the mailbox and the tables are not touched. -/
def enterError (e : FrameError) (s : State) : State :=
  sendResponse e.code [] (s.clearBuffer.emit [.log (.frameError e.code)])

/-- The return: the sequence ends inside the event that began it, with the event's outcome
`Error(code)`; the block is at once ready for the next event. -/
def returnFromError (e : FrameError) (s : State) : State := s.emit [.rxOutcome (.error e.code)]

/-- `raise E` (60_exceptions R232), from the detection to the event's outcome. -/
def raiseError (e : FrameError) (s : State) : State := returnFromError e (enterError e s)

end Sys2Proof.Machine
end

