-- ==== Sys2Proof/Machine/Flags.lean ====
section
/-! DEFINITION. The conditions the block computes from its state: staleness, the derived header fields
and the phase. The one-bit flags of 10_state R33 are fields of State; the block has no arithmetic
condition codes. -/

namespace Sys2Proof.Machine

/-- `(t - last_activity) mod 2^TICK_W` (40_reassembler R101, R112 (e)). -/
def elapsed (c : Config) (t last : Nat) : Nat :=
  (t % 2 ^ c.tickW + (2 ^ c.tickW - last % 2 ^ c.tickW)) % 2 ^ c.tickW

/-- The test of `StaleCheck` (40_reassembler R101): a non-empty buffer whose last activity is
`STALE_TIMEOUT` or more in the past. -/
def State.stale (s : State) (t : Nat) : Bool :=
  decide (s.len ≠ 0) && decide (staleTimeout ≤ elapsed s.cfg t s.lastActivity)

/-- The verdict on the header in the buffer, the derived header fields of 10_state R27; `none` when the
seven cells were not all written. DESIGN CHOICE (log 23): R27 defines these fields only while
`len ≥ HEADER_SIZE`; with fewer bytes this is the verdict on whatever seven bytes the cells still hold. No
step reads it. -/
def State.header (s : State) : Option HeaderVerdict :=
  (s.buf.readBytes 0 headerSize).map (judgeHeader s.cfg)

/-- The reassembler's position within a frame (10_state R25). -/
inductive Phase where
  | empty
  | header
  | body
deriving DecidableEq, Repr

/-- The phase, derived from `len` and `header_validated` (10_state R25). -/
def State.phase (s : State) : Phase :=
  if s.len = 0 then .empty else if s.headerValidated then .body else .header

end Sys2Proof.Machine
end

