-- ==== Sys2Proof/Machine/Multiplexer.lean ====
section
/-! DEFINITION. The command-dispatch multiplexer: `POLL`, `Resolve`, `MapResult`, and the two
configuration events (42_mailbox_dispatch R143 to R154). -/

namespace Sys2Proof.Machine

/-- The status code `NotReady` (30_encoding R78). -/
def notReadyCode : Byte := 132#8

/-- `Resolve(cmd, payload)`, the dispatch multiplexer (42_mailbox_dispatch R145): the forward port, the
handler port or the constant `NotReady`, with the call it emits. `answer` is the environment's answer to
that call. -/
def resolve (s : State) (cmd : Nat) (h : cmd < cmdMax) (payload : List Byte) (answer : CallAnswer) :
    List OutEvent × CallAnswer :=
  if s.cfg.forwardEn && s.fwdValid[cmd] then
    ([.fwdCall s.fwdTarget[cmd] (BitVec.ofNat 8 cmd) payload], answer)
  else if s.handlerValid[cmd] then
    ([.handlerCall s.handlerId[cmd] (BitVec.ofNat 8 cmd) payload], answer)
  else ([], .err notReadyCode)

/-- `MapResult(result)` (42_mailbox_dispatch R148, R151). -/
def mapResult (c : Config) : CallAnswer → Byte × List Byte
  | .ok payload => (0#8, payload.take c.respBufCap)
  | .err code => (code, [])

/-- The part of `POLL` after the frame is taken out: call, map, send (42_mailbox_dispatch R143). The
mailbox is empty before any call or output. -/
def dispatch (cmd : Nat) (h : cmd < cmdMax) (payload : List Byte) (answer : CallAnswer) (s : State) :
    State :=
  let resolved := resolve s cmd h payload answer
  let response := mapResult s.cfg resolved.2
  sendResponse response.1 response.2 (s.emptyMailbox.emit resolved.1)

/-- `POLL` (42_mailbox_dispatch R143, R144). -/
def poll (answer : CallAnswer) (s : State) : Result :=
  if s.mboxFull = false then .next s
  else
    match s.mailboxBytes with
    | .error f => .fault f
    | .ok payload =>
        if h : s.mboxCmd.toNat < cmdMax then .next (dispatch s.mboxCmd.toNat h payload answer s)
        else .fault .mailboxRange

/-- `REG_HANDLER(cmd, hid)` (42_mailbox_dispatch R152, R154). -/
def regHandler (cmd : Byte) (hid : HandlerId) (s : State) : State :=
  if h : cmd.toNat < cmdMax then s.setHandler cmd.toNat h hid else s.emit [.log .cfgRefused]

/-- `REG_FORWARD(cmd, target)` (42_mailbox_dispatch R153, R154). -/
def regForward (cmd : Byte) (target : CtxId) (s : State) : State :=
  if h : cmd.toNat < cmdMax then s.setForward cmd.toNat h target else s.emit [.log .cfgRefused]

end Sys2Proof.Machine
end

