-- ==== Sys2Proof/Machine/Mailbox.lean ====
section
/-! DEFINITION. What a frame does once all its bytes are in: the footer and checksum tests of
`CompletionCheck` (40_reassembler R104), `SUBMIT` and `DELIVER_RESPONSE` (42_mailbox_dispatch R140,
R146). Every meaning of a frame is one line over `runFrame`. -/

namespace Sys2Proof.Machine

/-- `SUBMIT(cmd, payload)`: into an empty mailbox, or dropped and logged (42_mailbox_dispatch R140,
R141). -/
def submit (cmd : Byte) (payload : List Byte) (s : State) : State :=
  if s.mboxFull then s.emit [.log .mailboxDrop] else s.fillMailbox cmd payload

/-- `DELIVER_RESPONSE(status, payload)` (42_mailbox_dispatch R146). -/
def deliverResponse (status : Byte) (payload : List Byte) (s : State) : State :=
  s.emit [.respDeliver status payload]

/-- The frame is good: clear the buffer, hand the frame on, report it (40_reassembler R104). The
outcome is `Frame` even when the mailbox drops it. -/
def acceptFrame (dir : Direction) (selector : Byte) (payload : List Byte) (s : State) : State :=
  (match dir with
    | .request => submit selector payload s.clearBuffer
    | .response => deliverResponse selector payload s.clearBuffer).emit
    [.rxOutcome (.frame dir selector payload)]

/-- The effect of a received frame of a direction and a legal selector: the `data_size` bound
(40_reassembler R103), then the footer magic, then the checksum (R104, in the order of
60_exceptions R231), then acceptance. -/
def runFrame (dir : Direction) (selector : Byte) (tail : Tail) (s : State) : State :=
  match tail with
  | .oversize _ => raiseError .dataTooLarge s
  | .complete payload checksum footer =>
      if maxDataSize < payload.length then raiseError .dataTooLarge s
      else if footer ≠ footerMagic then raiseError .invalidFooter s
      else
        match checksumCheck s.cfg (coveredBytes s.cfg dir.magic selector payload) checksum with
        | .mismatch =>
            if s.cfg.checksumMode = .enforced then raiseError .invalidData s
            else acceptFrame dir selector payload (s.emit [.log .checksumIgnored])
        | .matched | .notPresent => acceptFrame dir selector payload s

end Sys2Proof.Machine
end

