-- ==== Sys2Proof/Machine/Requests.lean ====
section
/-! DEFINITION. The ten rows of the table that are Requests (43_commands R170 to R179,
60_exceptions R221). The block treats the nine commands alike (43_commands R170): each is one line over
`runFrame`. What is received here is dispatched by `poll` (Multiplexer.lean). -/

namespace Sys2Proof.Machine

/-- `TurnOff`, command id 0 (43_commands R171). -/
def execTurnOff (tail : Tail) (s : State) : Result := .next (runFrame .request 0#8 tail s)

/-- `TurnOn`, command id 1 (43_commands R172). -/
def execTurnOn (tail : Tail) (s : State) : Result := .next (runFrame .request 1#8 tail s)

/-- `GetInfo`, command id 2 (43_commands R173). -/
def execGetInfo (tail : Tail) (s : State) : Result := .next (runFrame .request 2#8 tail s)

/-- `SetBrightness`, command id 3 (43_commands R174). -/
def execSetBrightness (tail : Tail) (s : State) : Result := .next (runFrame .request 3#8 tail s)

/-- `SetColor`, command id 4 (43_commands R175). -/
def execSetColor (tail : Tail) (s : State) : Result := .next (runFrame .request 4#8 tail s)

/-- `SetEffect`, command id 5 (43_commands R176). -/
def execSetEffect (tail : Tail) (s : State) : Result := .next (runFrame .request 5#8 tail s)

/-- `GetBrightness`, command id 6 (43_commands R177). -/
def execGetBrightness (tail : Tail) (s : State) : Result := .next (runFrame .request 6#8 tail s)

/-- `GetEffect`, command id 7 (43_commands R178). -/
def execGetEffect (tail : Tail) (s : State) : Result := .next (runFrame .request 7#8 tail s)

/-- `GetOnState`, command id 8 (43_commands R179). -/
def execGetOnState (tail : Tail) (s : State) : Result := .next (runFrame .request 8#8 tail s)

/-- `REQ.illegal`: the receiver raises `InvalidCommand` at the seventh byte, whatever `data_size` is
(40_reassembler R103, 60_exceptions R221); only the code is recorded. -/
def execReqIllegal (_selector : Byte) (_size : Half) (s : State) : Result :=
  .next (raiseError .invalidCommand s)

end Sys2Proof.Machine
end

