-- ==== Sys2Proof/Machine/Responses.lean ====
section
/-! DEFINITION. The ten rows of the table that are Responses (43_commands R180 to R190). Every status is
delivered the same way (R180): each is one line over `runFrame`. -/

namespace Sys2Proof.Machine

/-- `RESP.Ok`, status 0 (43_commands R181). -/
def execRespOk (tail : Tail) (s : State) : Result := .next (runFrame .response 0#8 tail s)

/-- `RESP.Ping`, status 1 (43_commands R182). -/
def execRespPing (tail : Tail) (s : State) : Result := .next (runFrame .response 1#8 tail s)

/-- `RESP.InvalidCommand`, status 128 (43_commands R183). -/
def execRespInvalidCommand (tail : Tail) (s : State) : Result := .next (runFrame .response 128#8 tail s)

/-- `RESP.InvalidHeader`, status 129 (43_commands R184). -/
def execRespInvalidHeader (tail : Tail) (s : State) : Result := .next (runFrame .response 129#8 tail s)

/-- `RESP.InvalidData`, status 130 (43_commands R185). -/
def execRespInvalidData (tail : Tail) (s : State) : Result := .next (runFrame .response 130#8 tail s)

/-- `RESP.InvalidFooter`, status 131 (43_commands R186). -/
def execRespInvalidFooter (tail : Tail) (s : State) : Result := .next (runFrame .response 131#8 tail s)

/-- `RESP.NotReady`, status 132 (43_commands R187). -/
def execRespNotReady (tail : Tail) (s : State) : Result := .next (runFrame .response 132#8 tail s)

/-- `RESP.Timeout`, status 133 (43_commands R188). -/
def execRespTimeout (tail : Tail) (s : State) : Result := .next (runFrame .response 133#8 tail s)

/-- `RESP.DataTooLarge`, status 134 (43_commands R189). -/
def execRespDataTooLarge (tail : Tail) (s : State) : Result := .next (runFrame .response 134#8 tail s)

/-- `RESP.unnamed`, status 2..127 or 135..255: delivered unchanged (43_commands R190). -/
def execRespUnnamed (status : Byte) (tail : Tail) (s : State) : Result :=
  .next (runFrame .response status tail s)

end Sys2Proof.Machine
end

