-- ==== Sys2Proof/Machine/Dispatch.lean ====
section
/-! DEFINITION. One arm per row of spec/opcode_table.json. -/

namespace Sys2Proof.Machine

def exec (i : Instr) (s : State) : Host.Outcome State Fault Refusal :=
  match i with
  | .turnOff tail => Sys2Proof.Machine.execTurnOff tail s
  | .turnOn tail => Sys2Proof.Machine.execTurnOn tail s
  | .getInfo tail => Sys2Proof.Machine.execGetInfo tail s
  | .setBrightness tail => Sys2Proof.Machine.execSetBrightness tail s
  | .setColor tail => Sys2Proof.Machine.execSetColor tail s
  | .setEffect tail => Sys2Proof.Machine.execSetEffect tail s
  | .getBrightness tail => Sys2Proof.Machine.execGetBrightness tail s
  | .getEffect tail => Sys2Proof.Machine.execGetEffect tail s
  | .getOnState tail => Sys2Proof.Machine.execGetOnState tail s
  | .reqIllegal selector size => Sys2Proof.Machine.execReqIllegal selector size s
  | .respOk tail => Sys2Proof.Machine.execRespOk tail s
  | .respPing tail => Sys2Proof.Machine.execRespPing tail s
  | .respInvalidCommand tail => Sys2Proof.Machine.execRespInvalidCommand tail s
  | .respInvalidHeader tail => Sys2Proof.Machine.execRespInvalidHeader tail s
  | .respInvalidData tail => Sys2Proof.Machine.execRespInvalidData tail s
  | .respInvalidFooter tail => Sys2Proof.Machine.execRespInvalidFooter tail s
  | .respNotReady tail => Sys2Proof.Machine.execRespNotReady tail s
  | .respTimeout tail => Sys2Proof.Machine.execRespTimeout tail s
  | .respDataTooLarge tail => Sys2Proof.Machine.execRespDataTooLarge tail s
  | .respUnnamed status tail => Sys2Proof.Machine.execRespUnnamed status tail s

end Sys2Proof.Machine
end

