-- ==== Sys2Proof/Machine/Reassembler.lean ====
section
/-! DEFINITION. The packet reassembler: `RX_BYTE` and its five steps (40_reassembler R100 to R105). The
instruction in the buffer is fetched, decoded and run at the byte that makes it decidable: its seventh
byte when the header is refused, its last byte otherwise (log 9). -/

namespace Sys2Proof.Machine

/-- `StaleCheck(t)` (40_reassembler R101). -/
def staleCheck (t : Nat) (s : State) : State :=
  if s.stale t then s.clearBuffer.emit [.log .staleDiscard] else s

/-- `AppendByte(b)` (40_reassembler R102); `none` is the overflow branch. The sum does not wrap (R112 (a),
log 14). -/
def appendByte (b : Byte) (s : State) : Option State :=
  if capacity s.cfg < s.len.toNat + 1 then none else some (s.storeByte b)

/-- `MoreData(t)` (40_reassembler R105). -/
def moreData (t : Nat) (s : State) : State := (s.touch t).emit [.rxOutcome .more]

/-- `CompletionCheck()`, then `MoreData(t)` (40_reassembler R104, R105): when
`HEADER_SIZE + n + FOOTER_SIZE` bytes are present, the frame in the buffer is decoded and run. DESIGN
CHOICE (log 11): over an illegal header, which 10_state R34 (c) excludes under `header_validated`, the bytes
before that give `More`; at it a bad magic is the fault `headerCorrupt`, and a Request with an illegal
selector is the instruction `REQ.illegal`. -/
def completionCheck (t : Nat) (s : State) : Result :=
  if s.headerValidated = false then .next (moreData t s)
  else
    match s.bufBytes headerSize with
    | .error f => .fault f
    | .ok hdr =>
        let n := (half16 s.cfg.wireOrder (hdr.drop 5)).toNat
        if s.len.toNat < frameLength s.cfg n then .next (moreData t s)
        else
          match s.bufBytes (frameLength s.cfg n) with
          | .error f => .fault f
          | .ok bytes =>
              match decode s.cfg bytes with
              | .error _ => .fault .headerCorrupt
              | .ok (i, _) => exec i s

/-- `HeaderCheck()` and what follows it (40_reassembler R103): a refused header of a known direction is
an instruction that raises its error; a bad magic is no instruction, and raises `InvalidHeader`. -/
def headerCheck (t : Nat) (s : State) : Result :=
  if s.headerValidated ∨ s.len.toNat < headerSize then completionCheck t s
  else
    match s.bufBytes headerSize with
    | .error f => .fault f
    | .ok hdr =>
        match judgeHeader s.cfg hdr with
        | .badMagic => .next (raiseError .invalidHeader s)
        | .badCommand selector size => exec (.reqIllegal selector size) s
        | .tooLarge dir selector size => exec (instrOf dir selector (.oversize size)) s
        | .legal _ _ _ => completionCheck t s.validateHeader

/-- `RX_BYTE(b, t)` (40_reassembler R100). -/
def rxByte (b : Byte) (t : Nat) (s : State) : Result :=
  match appendByte b (staleCheck t s) with
  | none => .next (raiseError .dataTooLarge (staleCheck t s))
  | some s' => headerCheck t s'

/-- All but the last byte of a frame received, with no gap, and its last byte offered next: the state in
which the very next step fetches and runs that frame. -/
def placeFrame (s : State) (bytes : List Byte) : State :=
  { s with
    buf := s.buf.writeBytes 0 bytes.dropLast
    len := BitVec.ofNat lenW (bytes.length - 1)
    headerValidated := decide (headerSize ≤ bytes.length - 1)
    inputs := .rxByte (bytes.getLastD 0#8) s.lastActivity :: s.inputs }

end Sys2Proof.Machine
end

