-- ==== Sys2Proof/Machine/Events.lean ====
section
/-! DEFINITION. The effect of each input event (30_encoding R90), the receive FIFO at the block's edge
(20_memory R61) and `RESET` (70_reset_and_hazards R260). -/

namespace Sys2Proof.Machine

/-- `RESET`: every element of the context at its reset value. The configuration is fixed when the block
is built (10_state R32), and the FIFO and the environment's inputs are not the block's state (log 15,
22). -/
def resetContext (s : State) : State :=
  { State.created s.cfg with
    rxFifo := s.rxFifo
    inputs := s.inputs
    txAnswers := s.txAnswers }

/-- `PUSH(b)`: queued, or the arriving byte is dropped and logged (20_memory R61). -/
def pushByte (b : Byte) (s : State) : State :=
  if s.rxFifo.length < s.cfg.rxFifoDepth then s.withFifo (s.rxFifo ++ [b])
  else s.emit [.log .rxFifoOverflow]

/-- `POP` at tick `t`: the oldest byte is removed and received (20_memory R61); with an empty queue there
is no byte and nothing happens (log 15). -/
def popByte (t : Nat) (s : State) : Result :=
  match s.rxFifo with
  | [] => .next s
  | b :: q => rxByte b t (s.withFifo q)

/-- One event, already taken out of the inputs. -/
def handle (e : Event) (s : State) : Result :=
  match e with
  | .reset => .next (resetContext s)
  | .regHandler cmd hid => .next (regHandler cmd hid s)
  | .regForward cmd target => .next (regForward cmd target s)
  | .rxByte b t => rxByte b t s
  | .poll answer => poll answer s
  | .push b => .next (pushByte b s)
  | .pop t => popByte t s

end Sys2Proof.Machine
end

