-- ==== Sys2Proof/Machine/Step.lean ====
section
/-! DEFINITION. One step: the block takes the oldest input event and finishes it (00_scope R6,
20_memory R55, R57). -/

namespace Sys2Proof.Machine

/-- One atomic event. With none offered the block is idle, all state retained (60_exceptions R245). -/
def step (s : State) : Host.Outcome State Fault Refusal :=
  match s.inputs with
  | [] => .next s
  | e :: rest => handle e (s.withInputs rest)

/-- `s` with the frame that the word begins received but for its last byte, and that byte offered next
(log 21): the next step fetches and runs exactly that frame. -/
def State.withFetchWord (s : State) (nbits w : Nat) : State :=
  placeFrame s (tableWordBytes s.cfg nbits w)

end Sys2Proof.Machine
end

