-- ==== Sys2Proof/Machine/Operands.lean ====
section
/-! DEFINITION. The payload shapes that peers and handlers agree on (30_encoding R96, 43_commands R173
to R179): fields packed in the order listed, without padding, little-endian (43_commands R170, 92 D4).
The block never looks at a payload (20_memory R56), so no meaning uses these: they give the symbolic
frames of 30_encoding R95 their bytes. -/

namespace Sys2Proof.Machine

/-- A field `name:u8=v` (30_encoding R95). -/
def packU8 (v : Byte) : List Byte := [v]

/-- A field `name:u16=v` (30_encoding R95, log 17). -/
def packU16 (v : Half) : List Byte := bytes16 .littleEndian v

/-- A field `name:u32=v` (30_encoding R95, log 17). -/
def packU32 (v : Word) : List Byte := bytes32 .littleEndian v

/-- `GetInfo→{fw_version:u8, leds_top:u16, leds_bottom:u16}` (43_commands R173). -/
structure GetInfoPayload where
  fwVersion : Byte
  ledsTop : Half
  ledsBottom : Half
deriving DecidableEq, Repr

/-- The five bytes of a `GetInfo` answer. -/
def GetInfoPayload.pack (p : GetInfoPayload) : List Byte :=
  packU8 p.fwVersion ++ packU16 p.ledsTop ++ packU16 p.ledsBottom

/-- The fields of a `GetInfo` answer; `none` when its length is not the shape's. -/
def unpackGetInfo : List Byte → Option GetInfoPayload
  | [v, t0, t1, b0, b1] => some ⟨v, joinHalf t0 t1, joinHalf b0 b1⟩
  | _ => none

/-- `SetBrightness{brightness:u8, strip_mask:u8}` (43_commands R174). -/
structure SetBrightnessPayload where
  brightness : Byte
  stripMask : Byte
deriving DecidableEq, Repr

/-- The two bytes of a `SetBrightness` Request. -/
def SetBrightnessPayload.pack (p : SetBrightnessPayload) : List Byte :=
  packU8 p.brightness ++ packU8 p.stripMask

/-- The fields of a `SetBrightness` Request. -/
def unpackSetBrightness : List Byte → Option SetBrightnessPayload
  | [b, m] => some ⟨b, m⟩
  | _ => none

/-- `SetColor{strip_mask:u8, colors:[u32]}` (43_commands R175). -/
structure SetColorPayload where
  stripMask : Byte
  colors : List Word
deriving DecidableEq, Repr

/-- The `1 + 4 k` bytes of a `SetColor` Request. -/
def SetColorPayload.pack (p : SetColorPayload) : List Byte :=
  packU8 p.stripMask ++ p.colors.flatMap packU32

/-- Groups of four bytes as colours; `none` when bytes are left over. -/
def unpackColors : List Byte → Option (List Word)
  | [] => some []
  | b0 :: b1 :: b2 :: b3 :: rest => (unpackColors rest).map (joinWord b0 b1 b2 b3 :: ·)
  | _ => none

/-- The fields of a `SetColor` Request; the count of colours follows from the length only. -/
def unpackSetColor : List Byte → Option SetColorPayload
  | m :: rest => (unpackColors rest).map (SetColorPayload.mk m)
  | [] => none

/-- `SetEffect{effect:u8, speed:u8, strip_mask:u8, color:u32}` (43_commands R176). -/
structure SetEffectPayload where
  effect : Byte
  speed : Byte
  stripMask : Byte
  color : Word
deriving DecidableEq, Repr

/-- The seven bytes of a `SetEffect` Request. -/
def SetEffectPayload.pack (p : SetEffectPayload) : List Byte :=
  packU8 p.effect ++ packU8 p.speed ++ packU8 p.stripMask ++ packU32 p.color

/-- The fields of a `SetEffect` Request. -/
def unpackSetEffect : List Byte → Option SetEffectPayload
  | [e, v, m, b0, b1, b2, b3] => some ⟨e, v, m, joinWord b0 b1 b2 b3⟩
  | _ => none

/-- `GetEffect→{effect:u8, speed:u8, color:u32}` (43_commands R178). -/
structure GetEffectPayload where
  effect : Byte
  speed : Byte
  color : Word
deriving DecidableEq, Repr

/-- The six bytes of a `GetEffect` answer. -/
def GetEffectPayload.pack (p : GetEffectPayload) : List Byte :=
  packU8 p.effect ++ packU8 p.speed ++ packU32 p.color

/-- The fields of a `GetEffect` answer. -/
def unpackGetEffect : List Byte → Option GetEffectPayload
  | [e, v, b0, b1, b2, b3] => some ⟨e, v, joinWord b0 b1 b2 b3⟩
  | _ => none

/-- `GetBrightness→{brightness:u8}` (43_commands R177). -/
def packGetBrightness (brightness : Byte) : List Byte := packU8 brightness

/-- `GetOnState→{is_on:u8}` (43_commands R179). -/
def packGetOnState (isOn : Byte) : List Byte := packU8 isOn

end Sys2Proof.Machine
end

