-- ==== Sys2Proof/Safety.lean ====
section
/-! DEFINITION. What a safe state and a safe run are, and the terms the claims use. -/

namespace Sys2Proof.Machine

/-- 10_state R34 (c) and (d): the header in the buffer is legal, and the frame it begins is not yet
complete. -/
def State.headerFits (s : State) : Bool :=
  match s.header with
  | some (.legal _ _ size) => decide (s.len.toNat < frameLength s.cfg size.toNat)
  | _ => false

/-- The state invariant of 10_state R34, with what the model's own data needs beside it: the stores are
canonical and inside their address ranges, the cells a rule may read are written (70_reset_and_hazards R262), the
tick sample has `TICK_W` bits and the FIFO holds at most `RX_FIFO_DEPTH` bytes. -/
structure State.Inv (s : State) : Prop where
  /-- The parameters are in the ranges of 00_scope R9. -/
  cfg : s.cfg.wf
  /-- `buf` is in canonical form. -/
  bufCanonical : s.buf.wf
  /-- `buf` has `CAPACITY` cells (10_state R21). -/
  bufRange : ∀ cell ∈ s.buf, cell.1 < capacity s.cfg
  /-- Every cell below `len` was written (70_reset_and_hazards R262). -/
  bufWritten : ∀ i < s.len.toNat, (s.buf.read i).isSome
  /-- R34 (a). -/
  lenBound : s.len.toNat ≤ capacity s.cfg
  /-- R34 (b), and no other combination of 10_state R25. -/
  validated : s.headerValidated = decide (headerSize ≤ s.len.toNat)
  /-- R34 (c) and (d). -/
  header : s.headerValidated = true → s.headerFits = true
  /-- `mbox_data` is in canonical form. -/
  mboxCanonical : s.mboxData.wf
  /-- `mbox_data` has `MAX_DATA_SIZE` cells (10_state R29). -/
  mboxRange : ∀ cell ∈ s.mboxData, cell.1 < maxDataSize
  /-- R34 (e). -/
  mailbox : s.mboxFull = true → s.mboxCmd.toNat < cmdMax ∧ s.mboxLen.toNat ≤ maxDataSize ∧
    ∀ i < s.mboxLen.toNat, (s.mboxData.read i).isSome
  /-- `last_activity` has `TICK_W` bits (10_state R26). -/
  tick : s.lastActivity < 2 ^ s.cfg.tickW
  /-- The FIFO is a queue of at most `RX_FIFO_DEPTH` bytes (20_memory R61). -/
  fifo : s.rxFifo.length ≤ s.cfg.rxFifoDepth

/-- The two states agree on everything a rule may read: all of it, but for the elements 70_reset_and_hazards R262 lists
as unspecified at that moment. -/
structure State.Agrees (s t : State) : Prop where
  cfg : t.cfg = s.cfg
  len : t.len = s.len
  headerValidated : t.headerValidated = s.headerValidated
  /-- Only the cells below `len` hold bytes of the frame (10_state R21). -/
  buf : ∀ i < s.len.toNat, t.buf.read i = s.buf.read i
  /-- Meaningful while the buffer is not empty (10_state R26). -/
  lastActivity : s.len ≠ 0 → t.lastActivity = s.lastActivity
  mboxFull : t.mboxFull = s.mboxFull
  /-- Meaningful while the mailbox is full (10_state R29). -/
  mailbox : s.mboxFull = true → t.mboxCmd = s.mboxCmd ∧ t.mboxLen = s.mboxLen ∧
    ∀ i < s.mboxLen.toNat, t.mboxData.read i = s.mboxData.read i
  handlerValid : t.handlerValid = s.handlerValid
  /-- Meaningful under its valid bit (10_state R30). -/
  handlerId : ∀ c (h : c < cmdMax), s.handlerValid[c] = true → t.handlerId[c] = s.handlerId[c]
  fwdValid : t.fwdValid = s.fwdValid
  /-- Meaningful under its valid bit (10_state R31). -/
  fwdTarget : ∀ c (h : c < cmdMax), s.fwdValid[c] = true → t.fwdTarget[c] = s.fwdTarget[c]
  out : t.out = s.out
  rxFifo : t.rxFifo = s.rxFifo
  inputs : t.inputs = s.inputs
  txAnswers : t.txAnswers = s.txAnswers

/-- The contract of 42_mailbox_dispatch R155 and 93 U9: after a `RESET`, every registration comes before
the first byte or poll. `started` says that traffic has begun. DESIGN CHOICE (log 18): R155 and U9 name
`RX_BYTE` and `POLL` only; here every `POP` of the FIFO begins traffic too, also one that finds the FIFO
empty and so performs no `RX_BYTE`. Safe: the predicate holds of fewer lists of events than the contract. -/
def setupBeforeTraffic : Bool → List Event → Bool
  | _, [] => true
  | _, .reset :: es => setupBeforeTraffic false es
  | started, .regHandler _ _ :: es => !started && setupBeforeTraffic started es
  | started, .regForward _ _ :: es => !started && setupBeforeTraffic started es
  | _, .rxByte _ _ :: es => setupBeforeTraffic true es
  | _, .poll _ :: es => setupBeforeTraffic true es
  | _, .pop _ :: es => setupBeforeTraffic true es
  | started, .push _ :: es => setupBeforeTraffic started es

/-- The contract of 60_exceptions R241 and 93 U20: each tick is at or after the one before it, by less
than `2^TICK_W` ms. DESIGN CHOICE (log 18): the ticks are read as true times in ms, not reduced modulo
`2^TICK_W`, so `TICK_W`-bit samples across a wrap (0xFFFFFFF6, then 5, in V17) do not meet the predicate,
although R241 allows them; the same run meets it with its times written out (0xFFFFFFF6, then 0x100000005),
and the block does the same, since it reduces each tick. Safe: fewer lists are covered.
DESIGN CHOICE (log 18): the contract is between consecutive `RX_BYTE` events; here the tick of a `POP` that
finds the FIFO empty counts too. Unsafe: with such a `POP` between two bytes their gap may reach
`2^TICK_W`. No statement uses the predicate. -/
def ticksMonotone (c : Config) (last : Nat) : List Event → Bool
  | [] => true
  | .rxByte _ t :: es => decide (last ≤ t ∧ t - last < 2 ^ c.tickW) && ticksMonotone c t es
  | .pop t :: es => decide (last ≤ t ∧ t - last < 2 ^ c.tickW) && ticksMonotone c t es
  | _ :: es => ticksMonotone c last es

/-- The nine Requests with given operands, each with its command id (30_encoding R77). -/
def requestForms (tail : Tail) : List (Instr × Byte) :=
  [(.turnOff tail, 0#8), (.turnOn tail, 1#8), (.getInfo tail, 2#8), (.setBrightness tail, 3#8),
   (.setColor tail, 4#8), (.setEffect tail, 5#8), (.getBrightness tail, 6#8), (.getEffect tail, 7#8),
   (.getOnState tail, 8#8)]

/-- The nine named Responses with given operands, each with its status code (30_encoding R78). -/
def responseForms (tail : Tail) : List (Instr × Byte) :=
  [(.respOk tail, 0#8), (.respPing tail, 1#8), (.respInvalidCommand tail, 128#8),
   (.respInvalidHeader tail, 129#8), (.respInvalidData tail, 130#8),
   (.respInvalidFooter tail, 131#8), (.respNotReady tail, 132#8), (.respTimeout tail, 133#8),
   (.respDataTooLarge tail, 134#8)]

/-- Every frame that can end complete: the nine Requests, the nine named Responses, and the Response of
an unnamed status, each with its direction and selector. -/
def frameForms (unnamed : Byte) (tail : Tail) : List (Instr × Direction × Byte) :=
  (requestForms tail).map (fun x => (x.1, .request, x.2)) ++
    (responseForms tail).map (fun x => (x.1, .response, x.2)) ++
    [(.respUnnamed unnamed tail, .response, unnamed)]

/-- The events of a chunk of bytes, one `RX_BYTE` each (40_reassembler R109). -/
def receiveEvents (bytes : List Byte) (ticks : List Nat) : List Event :=
  (bytes.zip ticks).map (fun x => .rxByte x.1 x.2)

end Sys2Proof.Machine
end

