-- ==== Sys2Proof/Certificates/Slice0/Obligations.lean ====
section
/-! DEFINITION. The statements for the provers. Each docstring says which rule of spec/ it formalises. In
a next state written `{ s with ... }` every field that is not named is unchanged: such an equation is the
result and the frame in one. -/

open Sys2Proof Sys2Proof.Machine

/-! ### Encoding (30_encoding) -/

/-- Every frame on the wire of a build decodes to the instruction it encodes, with every operand at every
value, and leaves the bytes after it (30_encoding R71, R72, R75). -/
def Obligations.EncodedInstructionDecodesToItself : Prop :=
  ∀ (c : Config) (i : Instr) (rest : List Byte), i.wellFormed c = true →
    decode c (encode c i ++ rest) = .ok (i, rest)

/-- The other direction: what the decoder accepts is well-formed, and encoding it gives back exactly the
bytes the decoder took, in either byte order: no bit of a frame is dropped (30_encoding R71, R74). -/
def Obligations.DecodedInstructionIsWellFormed : Prop :=
  ∀ (c : Config) (bytes rest : List Byte) (i : Instr),
    decode c bytes = .ok (i, rest) → i.wellFormed c = true ∧ encode c i ++ rest = bytes

/-- Four frames of 95_test_vectors, written out from 43_commands R174, R175, R173 and R190, decode to the
instruction they stand for in a build without checksum. -/
def Obligations.ListedFramesDecode : Prop :=
  let c : Config := { Config.default with checksumMode := .absent };
    decode c [0x46, 0x4C, 0x4D, 0x00, 0x03, 0x02, 0x00, 0x32, 0x03, 0x6C, 0x65, 0x64, 0x73] =
    .ok (.setBrightness (.complete [0x32, 0x03] none footerMagic), []) ∧
  decode c [0x46, 0x4C, 0x4D, 0x00, 0x04, 0x05, 0x00, 0x01, 0x6C, 0x65, 0x64, 0x73, 0x6C, 0x65,
      0x64, 0x73] =
    .ok (.setColor (.complete [0x01, 0x6C, 0x65, 0x64, 0x73] none footerMagic), []) ∧
  decode c [0x4D, 0x4C, 0x52, 0x00, 0x00, 0x05, 0x00, 0x01, 0x5A, 0x00, 0xD8, 0x00, 0x6C, 0x65,
      0x64, 0x73] =
    .ok (.respOk (.complete [0x01, 0x5A, 0x00, 0xD8, 0x00] none footerMagic), []) ∧
  decode c [0x4D, 0x4C, 0x52, 0x00, 0xC8, 0x00, 0x00, 0x6C, 0x65, 0x64, 0x73] =
    .ok (.respUnnamed 0xC8 (.complete [] none footerMagic), [])

/-- The opcode table decides the instruction: the first five bytes of a decoded frame match the table's
row of its constructor under the row's mask, and a catch-all row applies only where no full-mask row
matches (30_encoding R81). -/
def Obligations.DecodedFrameMatchesItsTableRow : Prop :=
  ∀ (c : Config) (bytes rest : List Byte) (i : Instr), c.wireOrder = .littleEndian →
    decode c bytes = .ok (i, rest) →
      i.row.covers (tableKey bytes) = true ∧
        (i.row ∉ fullMaskRows → ∀ r ∈ fullMaskRows, r.covers (tableKey bytes) = false)

/-- The layout and the length of a serialised frame (30_encoding R91, R75). -/
def Obligations.SerializedFrameLayout : Prop :=
  ∀ (c : Config) (magic : Word) (selector : Byte) (payload : List Byte),
    let h := bytes32 c.wireOrder magic ++ [selector] ++
      bytes16 c.wireOrder (BitVec.ofNat 16 payload.length) ++ payload
    serialize c magic selector payload =
        h ++ (if c.checksumMode = .absent then [] else bytes32 c.wireOrder (checksumOf c h)) ++
          bytes32 c.wireOrder footerMagic ∧
      (serialize c magic selector payload).length = frameLength c payload.length

/-- A serialised frame decodes to the instruction of its direction and selector, with its payload, the
generated checksum and the footer magic (30_encoding R91, R95; 41_checksum R135). -/
def Obligations.SerializedFrameDecodes : Prop :=
  ∀ (c : Config) (dir : Direction) (selector : Byte) (payload rest : List Byte),
    payload.length ≤ maxDataSize → (dir = .request → selector.toNat < cmdMax) →
      decode c (serialize c dir.magic selector payload ++ rest) =
        .ok (instrOf dir selector (.complete payload
          (generatedChecksum c (coveredBytes c dir.magic selector payload)) footerMagic), rest)

/-- The payload shapes of 43_commands R173 to R178 are packed in the order listed without padding, and
read back. The byte order of the fields is log entry 17. -/
def Obligations.PayloadShapesReadBack : Prop :=
  (∀ p : GetInfoPayload, p.pack.length = 5 ∧ unpackGetInfo p.pack = some p) ∧
    (∀ p : SetBrightnessPayload, p.pack.length = 2 ∧ unpackSetBrightness p.pack = some p) ∧
    (∀ p : SetColorPayload, p.pack.length = 1 + 4 * p.colors.length ∧
      unpackSetColor p.pack = some p) ∧
    (∀ p : SetEffectPayload, p.pack.length = 7 ∧ unpackSetEffect p.pack = some p) ∧
    (∀ p : GetEffectPayload, p.pack.length = 6 ∧ unpackGetEffect p.pack = some p)

/-! ### The meanings of the frames -/

/-- A good Request of any of the nine commands, into an empty mailbox (43_commands R170 to R179,
40_reassembler R104, 42_mailbox_dispatch R140). -/
def Obligations.RequestsFillTheEmptyMailbox : Prop :=
  ∀ (s : State) (payload : List Byte) (checksum : Option Word) (i : Instr) (cmd : Byte),
    (i, cmd) ∈ requestForms (.complete payload checksum footerMagic) →
    payload.length ≤ maxDataSize →
    (s.cfg.checksumMode ≠ .absent →
      checksum = some (checksumOf s.cfg (coveredBytes s.cfg reqMagic cmd payload))) →
    s.mboxFull = false →
      exec i s = .next { s with
        len := 0
        headerValidated := false
        mboxFull := true
        mboxCmd := cmd
        mboxLen := BitVec.ofNat lenW payload.length
        mboxData := s.mboxData.writeBytes 0 payload
        out := s.out ++ [.rxOutcome (.frame .request cmd payload)] }

/-- Byte by byte: the submitted payload stands in `mbox_data[0 .. n-1]` and is what a `POLL` will take,
every other byte of both stores reads as before (42_mailbox_dispatch R140, 20_memory R54). -/
def Obligations.SubmittedPayloadByteByByte : Prop :=
  ∀ (s : State) (payload : List Byte) (checksum : Option Word) (i : Instr) (cmd : Byte),
    (i, cmd) ∈ requestForms (.complete payload checksum footerMagic) →
    payload.length ≤ maxDataSize →
    (s.cfg.checksumMode ≠ .absent →
      checksum = some (checksumOf s.cfg (coveredBytes s.cfg reqMagic cmd payload))) →
    s.mboxFull = false →
      ∃ t, exec i s = .next t ∧ t.mailboxBytes = .ok payload ∧
        (∀ a, t.mboxData.read a =
          if a < payload.length then payload[a]? else s.mboxData.read a) ∧
        (∀ a, t.buf.read a = s.buf.read a)

/-- A good Request that finds the mailbox occupied is dropped whole: the mailbox is not changed, nothing
is sent, the drop is logged, and the outcome is still the frame (42_mailbox_dispatch R141). -/
def Obligations.RequestsAreDroppedWhenTheMailboxIsFull : Prop :=
  ∀ (s : State) (payload : List Byte) (checksum : Option Word) (i : Instr) (cmd : Byte),
    (i, cmd) ∈ requestForms (.complete payload checksum footerMagic) →
    payload.length ≤ maxDataSize →
    (s.cfg.checksumMode ≠ .absent →
      checksum = some (checksumOf s.cfg (coveredBytes s.cfg reqMagic cmd payload))) →
    s.mboxFull = true →
      exec i s = .next { s with
        len := 0
        headerValidated := false
        out := s.out ++ [.log .mailboxDrop, .rxOutcome (.frame .request cmd payload)] }

/-- A good Response of any status, named or not, is delivered on the response channel and touches
neither the mailbox nor a handler (43_commands R180 to R190, 42_mailbox_dispatch R146). -/
def Obligations.ResponsesAreDelivered : Prop :=
  ∀ (s : State) (payload : List Byte) (checksum : Option Word) (i : Instr) (status : Byte),
    ((i, status) ∈ responseForms (.complete payload checksum footerMagic) ∨
      i = .respUnnamed status (.complete payload checksum footerMagic)) →
    payload.length ≤ maxDataSize →
    (s.cfg.checksumMode ≠ .absent →
      checksum = some (checksumOf s.cfg (coveredBytes s.cfg respMagic status payload))) →
      exec i s = .next { s with
        len := 0
        headerValidated := false
        out := s.out ++
          [.respDeliver status payload, .rxOutcome (.frame .response status payload)] }

/-- `REQ.illegal` completes by raising `InvalidCommand`, whatever its selector and `data_size`
(60_exceptions R221, R232). -/
def Obligations.IllegalCommandRaisesInvalidCommand : Prop :=
  ∀ (s : State) (selector : Byte) (size : Half),
    let sent := writeLoop s.cfg.txRetryDelayMs (serializeResponse s.cfg 128#8 []) s.cfg.txRetryMax
      s.txAnswers
    exec (.reqIllegal selector size) s = .next { s with
      len := 0
      headerValidated := false
      out := s.out ++ [.log (.frameError 128#8)] ++ sent.1 ++ [.rxOutcome (.error 128#8)]
      txAnswers := sent.2 }

/-- A header whose `data_size` exceeds 2048 traps to `DataTooLarge` in either direction
(40_reassembler R103, 60_exceptions R227 (a)). -/
def Obligations.OversizeHeaderRaisesDataTooLarge : Prop :=
  ∀ (s : State) (size : Half) (unnamed : Byte) (i : Instr) (dir : Direction) (selector : Byte),
    (i, dir, selector) ∈ frameForms unnamed (.oversize size) →
      let sent := writeLoop s.cfg.txRetryDelayMs (serializeResponse s.cfg 134#8 [])
        s.cfg.txRetryMax s.txAnswers
      exec i s = .next { s with
        len := 0
        headerValidated := false
        out := s.out ++ [.log (.frameError 134#8)] ++ sent.1 ++ [.rxOutcome (.error 134#8)]
        txAnswers := sent.2 }

/-- A complete frame whose footer magic is wrong traps to `InvalidFooter`, whatever its checksum
(60_exceptions R224, R231: the footer is judged before the checksum). -/
def Obligations.WrongFooterRaisesInvalidFooter : Prop :=
  ∀ (s : State) (payload : List Byte) (checksum : Option Word) (footer : Word) (unnamed : Byte)
    (i : Instr) (dir : Direction) (selector : Byte),
    (i, dir, selector) ∈ frameForms unnamed (.complete payload checksum footer) →
    payload.length ≤ maxDataSize → footer ≠ footerMagic →
      let sent := writeLoop s.cfg.txRetryDelayMs (serializeResponse s.cfg 131#8 [])
        s.cfg.txRetryMax s.txAnswers
      exec i s = .next { s with
        len := 0
        headerValidated := false
        out := s.out ++ [.log (.frameError 131#8)] ++ sent.1 ++ [.rxOutcome (.error 131#8)]
        txAnswers := sent.2 }

/-- In the `Enforced` build a checksum mismatch traps to `InvalidData`, and the frame is neither submitted
nor delivered (41_checksum R134, 60_exceptions R223). -/
def Obligations.ChecksumMismatchRaisesInvalidData : Prop :=
  ∀ (s : State) (payload : List Byte) (checksum : Option Word) (unnamed : Byte)
    (i : Instr) (dir : Direction) (selector : Byte),
    (i, dir, selector) ∈ frameForms unnamed (.complete payload checksum footerMagic) →
    payload.length ≤ maxDataSize → s.cfg.checksumMode = .enforced →
    checksum ≠ some (checksumOf s.cfg (coveredBytes s.cfg dir.magic selector payload)) →
      let sent := writeLoop s.cfg.txRetryDelayMs (serializeResponse s.cfg 130#8 [])
        s.cfg.txRetryMax s.txAnswers
      exec i s = .next { s with
        len := 0
        headerValidated := false
        out := s.out ++ [.log (.frameError 130#8)] ++ sent.1 ++ [.rxOutcome (.error 130#8)]
        txAnswers := sent.2 }

/-- In the `Ignored` build a mismatch is logged and the frame does what the same frame with the right
checksum does (41_checksum R133). -/
def Obligations.IgnoredChecksumMismatchIsLoggedAndAccepted : Prop :=
  ∀ (s : State) (payload : List Byte) (checksum : Option Word) (unnamed : Byte)
    (i j : Instr) (dir : Direction) (selector : Byte),
    (i, dir, selector) ∈ frameForms unnamed (.complete payload checksum footerMagic) →
    (j, dir, selector) ∈ frameForms unnamed (.complete payload
      (some (checksumOf s.cfg (coveredBytes s.cfg dir.magic selector payload))) footerMagic) →
    payload.length ≤ maxDataSize → s.cfg.checksumMode = .ignored →
    checksum ≠ some (checksumOf s.cfg (coveredBytes s.cfg dir.magic selector payload)) →
      exec i s = exec j { s with out := s.out ++ [.log .checksumIgnored] }

/-- The frame of all twenty instructions: exec always gives a next state, and leaves the reassembly
buffer's cells, the activity time, the tables, the configuration, the FIFO and the inputs as they were;
the trace only grows (40_reassembler R107, 60_exceptions R232, 10_state R33). -/
def Obligations.ExecFrame : Prop :=
  ∀ (i : Instr) (s : State), ∃ t, exec i s = .next t ∧
    t.len = 0 ∧ t.headerValidated = false ∧
    (∀ a, t.buf.read a = s.buf.read a) ∧ t.lastActivity = s.lastActivity ∧
    t.handlerValid = s.handlerValid ∧ t.handlerId = s.handlerId ∧
    t.fwdValid = s.fwdValid ∧ t.fwdTarget = s.fwdTarget ∧
    t.cfg = s.cfg ∧ t.rxFifo = s.rxFifo ∧ t.inputs = s.inputs ∧
    ∃ new, t.out = s.out ++ new

/-- Responses and illegal Requests write no cell and no register of the mailbox (42_mailbox_dispatch
R146, 60_exceptions R232). -/
def Obligations.ResponsesAndIllegalRequestsKeepTheMailbox : Prop :=
  ∀ (i : Instr) (s t : State),
    (i.head.1 = .response ∨ cmdMax ≤ i.head.2.toNat) → exec i s = .next t →
      t.mboxFull = s.mboxFull ∧ t.mboxCmd = s.mboxCmd ∧ t.mboxLen = s.mboxLen ∧
        ∀ a, t.mboxData.read a = s.mboxData.read a

/-- The frame-error sequence of each of the five errors, with its status code
(60_exceptions R221 to R224, R227, R232). -/
def Obligations.FrameErrorSequence : Prop :=
  (FrameError.invalidCommand.code = 128#8 ∧ FrameError.invalidHeader.code = 129#8 ∧
    FrameError.invalidData.code = 130#8 ∧ FrameError.invalidFooter.code = 131#8 ∧
    FrameError.dataTooLarge.code = 134#8) ∧
  ∀ (e : FrameError) (s : State),
    let sent := writeLoop s.cfg.txRetryDelayMs (serializeResponse s.cfg e.code []) s.cfg.txRetryMax
      s.txAnswers
    raiseError e s = { s with
      len := 0
      headerValidated := false
      out := s.out ++ [.log (.frameError e.code)] ++ sent.1 ++ [.rxOutcome (.error e.code)]
      txAnswers := sent.2 }

/-! ### One received byte (40_reassembler) -/

/-- A step runs the decoded instruction: when the byte on offer makes the bytes in the buffer a whole
frame, or a header that is refused, the step is exec of that instruction on the state in which the byte
has been taken and stored (40_reassembler R100, R102, R103, R104). -/
def Obligations.StepRunsTheDecodedFrame : Prop :=
  ∀ (s : State) (b : Byte) (t : Nat) (rest : List Event) (bytes : List Byte) (i : Instr),
    s.inputs = .rxByte b t :: rest → s.stale t = false → s.len.toNat < capacity s.cfg →
    s.headerValidated = decide (headerSize ≤ s.len.toNat) →
    ((s.withInputs rest).storeByte b).bufBytes (s.len.toNat + 1) = .ok bytes →
    decode s.cfg bytes = .ok (i, []) →
      step s = exec i ((s.withInputs rest).storeByte b)

/-- The same for a byte taken out of the receive FIFO: `POP` removes the oldest byte and performs
`RX_BYTE` with the tick of the pop; `PUSH` queues a byte while there is room, and otherwise drops the
arriving byte and logs it (20_memory R61). With an empty queue a `POP` does nothing: log entry 15. -/
def Obligations.ReceiveFifoQueuesAndDelivers : Prop :=
  (∀ (s : State) (b : Byte) (rest : List Event), s.inputs = .push b :: rest →
    s.rxFifo.length < s.cfg.rxFifoDepth →
      step s = .next { s with inputs := rest, rxFifo := s.rxFifo ++ [b] }) ∧
  (∀ (s : State) (b : Byte) (rest : List Event), s.inputs = .push b :: rest →
    s.cfg.rxFifoDepth ≤ s.rxFifo.length →
      step s = .next { s with inputs := rest, out := s.out ++ [.log .rxFifoOverflow] }) ∧
  (∀ (s : State) (b : Byte) (q : List Byte) (t : Nat) (rest : List Event),
    s.inputs = .pop t :: rest → s.rxFifo = b :: q →
      step s = step { s with inputs := .rxByte b t :: rest, rxFifo := q }) ∧
  (∀ (s : State) (t : Nat) (rest : List Event), s.inputs = .pop t :: rest → s.rxFifo = [] →
    step s = .next { s with inputs := rest })

/-- A byte that leaves the header incomplete is only stored: cell, position, activity time and the
outcome `More`, whatever the byte is (40_reassembler R102, R105, R113 rows 2 and 3). -/
def Obligations.HeaderBytesAreOnlyStored : Prop :=
  ∀ (s : State) (b : Byte) (t : Nat) (rest : List Event),
    s.inputs = .rxByte b t :: rest → s.stale t = false → s.len.toNat < 6 → s.headerValidated = false →
      step s = .next { s with
        inputs := rest
        buf := s.buf.write s.len.toNat b
        len := s.len + 1
        lastActivity := t % 2 ^ s.cfg.tickW
        out := s.out ++ [.rxOutcome .more] }

/-- The seventh byte of a legal header sets `header_validated` and refreshes `last_activity`
(40_reassembler R103, R105, R113 row 4). -/
def Obligations.LegalHeaderIsValidated : Prop :=
  ∀ (s : State) (b : Byte) (t : Nat) (rest : List Event) (hdr : List Byte) (dir : Direction)
    (selector : Byte) (size : Half),
    s.inputs = .rxByte b t :: rest → s.stale t = false → s.len = 6 → s.headerValidated = false →
    s.buf.readBytes 0 6 = some hdr → judgeHeader s.cfg (hdr ++ [b]) = .legal dir selector size →
      step s = .next { s with
        inputs := rest
        buf := s.buf.write 6 b
        len := 7
        headerValidated := true
        lastActivity := t % 2 ^ s.cfg.tickW
        out := s.out ++ [.rxOutcome .more] }

/-- The seventh byte of a header whose magic is neither of the two raises `InvalidHeader`, whatever its
selector and `data_size` (60_exceptions R222, R231). -/
def Obligations.BadMagicRaisesInvalidHeader : Prop :=
  ∀ (s : State) (b : Byte) (t : Nat) (rest : List Event) (hdr : List Byte),
    s.inputs = .rxByte b t :: rest → s.stale t = false → s.len = 6 → s.headerValidated = false →
    s.buf.readBytes 0 6 = some hdr →
    word32 s.cfg.wireOrder hdr ≠ reqMagic → word32 s.cfg.wireOrder hdr ≠ respMagic →
      let sent := writeLoop s.cfg.txRetryDelayMs (serializeResponse s.cfg 129#8 [])
        s.cfg.txRetryMax s.txAnswers
      step s = .next { s with
        inputs := rest
        buf := s.buf.write 6 b
        len := 0
        out := s.out ++ [.log (.frameError 129#8)] ++ sent.1 ++ [.rxOutcome (.error 129#8)]
        txAnswers := sent.2 }

/-- Between the header and the last byte of the frame every byte is stored and nothing is compared,
whatever the byte is (40_reassembler R110, R113 row 6). -/
def Obligations.BodyBytesAreOnlyStored : Prop :=
  ∀ (s : State) (b : Byte) (t : Nat) (rest : List Event) (dir : Direction) (selector : Byte)
    (size : Half),
    s.inputs = .rxByte b t :: rest → s.stale t = false → 7 ≤ s.len.toNat → s.headerValidated = true →
    s.header = some (.legal dir selector size) →
    s.len.toNat + 1 < frameLength s.cfg size.toNat →
      step s = .next { s with
        inputs := rest
        buf := s.buf.write s.len.toNat b
        len := s.len + 1
        lastActivity := t % 2 ^ s.cfg.tickW
        out := s.out ++ [.rxOutcome .more] }

/-- After any clear the next byte is byte 0 of a new frame, whatever it is and whenever it comes
(40_reassembler R114; on an empty buffer no staleness test is made, R101). -/
def Obligations.ByteIntoAnEmptyBufferStartsAFrame : Prop :=
  ∀ (s : State) (b : Byte) (t : Nat) (rest : List Event),
    s.inputs = .rxByte b t :: rest → s.len = 0 → s.headerValidated = false →
      step s = .next { s with
        inputs := rest
        buf := s.buf.write 0 b
        len := 1
        lastActivity := t % 2 ^ s.cfg.tickW
        out := s.out ++ [.rxOutcome .more] }

/-- Staleness: with a non-empty buffer and 1000 ms or more since the last byte, the partial frame is
discarded silently but for the log, and the byte is byte 0 of a fresh frame (40_reassembler R101). -/
def Obligations.StaleByteStartsAFreshFrame : Prop :=
  ∀ (s : State) (b : Byte) (t : Nat) (rest : List Event),
    s.inputs = .rxByte b t :: rest → s.len ≠ 0 → 1000 ≤ elapsed s.cfg t s.lastActivity →
      step s = .next { s with
        inputs := rest
        buf := s.buf.write 0 b
        len := 1
        headerValidated := false
        lastActivity := t % 2 ^ s.cfg.tickW
        out := s.out ++ [.log .staleDiscard, .rxOutcome .more] }

/-- The modular difference is the true gap between two ticks that are less than `2^TICK_W` apart, across
a wrap of the counter too (40_reassembler R101, R112 (e); 70_reset_and_hazards R278). -/
def Obligations.ElapsedIsTheTrueGap : Prop :=
  ∀ (c : Config) (last t : Nat), last ≤ t → t - last < 2 ^ c.tickW →
    elapsed c t last = t - last ∧ elapsed c (t % 2 ^ c.tickW) (last % 2 ^ c.tickW) = t - last

/-- An `RX_BYTE` emits exactly one `RX_OUTCOME`, and it is the last output event of its step
(40_reassembler R100). -/
def Obligations.OneOutcomePerReceivedByte : Prop :=
  ∀ (s t : State) (b : Byte) (tick : Nat) (rest : List Event),
    s.inputs = .rxByte b tick :: rest → step s = .next t →
      ∃ new o, t.out = s.out ++ new ++ [.rxOutcome o] ∧ ∀ o', OutEvent.rxOutcome o' ∉ new

/-- The phase transitions of one received byte (40_reassembler R113): a stale buffer goes on as an empty
one, a frame's first six bytes stay in the header phase, the seventh enters the body or empties the
buffer, and a body byte stays in the body or ends the frame. -/
def Obligations.PhaseTransitions : Prop :=
  ∀ (s t : State) (b : Byte) (tick : Nat) (rest : List Event),
    s.Inv → s.inputs = .rxByte b tick :: rest → step s = .next t →
      (s.stale tick = true ∨ s.phase = .empty → t.phase = .header ∧ t.len = 1) ∧
      (s.stale tick = false → s.phase = .header →
        (s.len.toNat < 6 → t.phase = .header ∧ t.len.toNat = s.len.toNat + 1) ∧
        (s.len = 6 → (t.phase = .body ∧ t.len = 7) ∨ (t.phase = .empty ∧ t.len = 0))) ∧
      (s.stale tick = false → s.phase = .body →
        (t.phase = .body ∧ t.len.toNat = s.len.toNat + 1) ∨ (t.phase = .empty ∧ t.len = 0))

/-- The overflow branch of `AppendByte` is dead: in a state that meets the invariant there is always room
for the byte (40_reassembler R111). -/
def Obligations.OverflowGuardIsNeverTaken : Prop :=
  ∀ (s : State) (b : Byte) (t : Nat), s.Inv → appendByte b (staleCheck t s) ≠ none

/-- Framing round trip: from an empty buffer, the bytes of a serialised frame, with gaps below
`STALE_TIMEOUT`, give `More` for every byte but the last and exactly one frame, equal to the original, for
the last, and leave the buffer empty; a Request then stands intact in the mailbox if that was empty, a
Response has been delivered (40_reassembler R116). -/
def Obligations.SerializedFrameIsReceivedIntact : Prop :=
  ∀ (s : State) (dir : Direction) (selector : Byte) (payload : List Byte) (ticks : List Nat)
    (rest : List Event),
    s.len = 0 → s.headerValidated = false → payload.length ≤ maxDataSize →
    (dir = .request → selector.toNat < cmdMax) →
    ticks.length = (serialize s.cfg dir.magic selector payload).length →
    (∀ k (h : k + 1 < ticks.length), elapsed s.cfg ticks[k + 1] ticks[k] < staleTimeout) →
    s.inputs = receiveEvents (serialize s.cfg dir.magic selector payload) ticks ++ rest →
      ∃ t, Sys2Proof.core.run ticks.length s = .next t ∧
        t.len = 0 ∧ t.headerValidated = false ∧ t.inputs = rest ∧
        t.out = s.out ++ List.replicate (ticks.length - 1) (.rxOutcome .more) ++
          (match dir with
            | .request => if s.mboxFull then [.log .mailboxDrop] else []
            | .response => [.respDeliver selector payload]) ++
          [.rxOutcome (.frame dir selector payload)] ∧
        (dir = .request → s.mboxFull = false →
          t.mboxFull = true ∧ t.mboxCmd = selector ∧ t.mailboxBytes = .ok payload)

/-- Staleness property: a partial frame, a gap of `STALE_TIMEOUT` or more, then a fresh valid frame,
parses as exactly one frame; the partial one is discarded, not concatenated (40_reassembler R117). -/
def Obligations.FreshFrameAfterAStalePartialOne : Prop :=
  ∀ (s : State) (dir : Direction) (selector : Byte) (payload : List Byte) (tick : Nat)
    (ticks : List Nat) (rest : List Event),
    s.len ≠ 0 → staleTimeout ≤ elapsed s.cfg tick s.lastActivity →
    payload.length ≤ maxDataSize → (dir = .request → selector.toNat < cmdMax) →
    (tick :: ticks).length = (serialize s.cfg dir.magic selector payload).length →
    (∀ k (h : k + 1 < (tick :: ticks).length),
      elapsed s.cfg (tick :: ticks)[k + 1] (tick :: ticks)[k] < staleTimeout) →
    s.inputs = receiveEvents (serialize s.cfg dir.magic selector payload) (tick :: ticks) ++ rest →
      ∃ t, Sys2Proof.core.run (tick :: ticks).length s = .next t ∧
        t.len = 0 ∧ t.headerValidated = false ∧ t.inputs = rest ∧
        t.out = s.out ++ [.log .staleDiscard] ++
          List.replicate ticks.length (.rxOutcome .more) ++
          (match dir with
            | .request => if s.mboxFull then [.log .mailboxDrop] else []
            | .response => [.respDeliver selector payload]) ++
          [.rxOutcome (.frame dir selector payload)]

/-! ### Dispatch and configuration (42_mailbox_dispatch) -/

/-- With nothing pending a `POLL` changes no state, emits nothing and asks nothing (R144). -/
def Obligations.PollWithNothingPendingDoesNothing : Prop :=
  ∀ (s : State) (answer : CallAnswer) (rest : List Event),
    s.inputs = .poll answer :: rest → s.mboxFull = false →
      step s = .next { s with inputs := rest }

/-- A command with a forward rule in effect is forwarded, whether or not it has a handler: the mailbox is
emptied, one `FWD_CALL` carries the payload, and the mapped answer is sent (42_mailbox_dispatch R143,
R145, R148, R150, R151). -/
def Obligations.PollForwardsBeforeLookingForAHandler : Prop :=
  ∀ (s : State) (answer : CallAnswer) (rest : List Event) (payload : List Byte)
    (h : s.mboxCmd.toNat < cmdMax),
    s.inputs = .poll answer :: rest → s.mboxFull = true → s.mailboxBytes = .ok payload →
    s.cfg.forwardEn = true → s.fwdValid[s.mboxCmd.toNat] = true →
      let response : Byte × List Byte :=
        match answer with
        | .ok p => (0#8, p.take s.cfg.respBufCap)
        | .err code => (code, [])
      let sent := writeLoop s.cfg.txRetryDelayMs
        (serializeResponse s.cfg response.1 response.2) s.cfg.txRetryMax s.txAnswers
      step s = .next { s with
        inputs := rest
        mboxFull := false
        out := s.out ++ [.fwdCall s.fwdTarget[s.mboxCmd.toNat] s.mboxCmd payload] ++ sent.1
        txAnswers := sent.2 }

/-- A command with a handler and no forward rule in effect is handed to its handler, and the mapped answer
is sent: status 0 and the payload cut to `RESP_BUF_CAP` for `Ok`, the code and an empty payload for `Err`
(42_mailbox_dispatch R143, R145, R147, R148, R151). -/
def Obligations.PollCallsTheHandler : Prop :=
  ∀ (s : State) (answer : CallAnswer) (rest : List Event) (payload : List Byte)
    (h : s.mboxCmd.toNat < cmdMax),
    s.inputs = .poll answer :: rest → s.mboxFull = true → s.mailboxBytes = .ok payload →
    (s.cfg.forwardEn = false ∨ s.fwdValid[s.mboxCmd.toNat] = false) →
    s.handlerValid[s.mboxCmd.toNat] = true →
      let response : Byte × List Byte :=
        match answer with
        | .ok p => (0#8, p.take s.cfg.respBufCap)
        | .err code => (code, [])
      let sent := writeLoop s.cfg.txRetryDelayMs
        (serializeResponse s.cfg response.1 response.2) s.cfg.txRetryMax s.txAnswers
      step s = .next { s with
        inputs := rest
        mboxFull := false
        out := s.out ++ [.handlerCall s.handlerId[s.mboxCmd.toNat] s.mboxCmd payload] ++ sent.1
        txAnswers := sent.2 }

/-- A command with no forward rule in effect and no handler is answered `NotReady` with an empty payload,
and nothing is called (42_mailbox_dispatch R149). -/
def Obligations.PollAnswersNotReady : Prop :=
  ∀ (s : State) (answer : CallAnswer) (rest : List Event) (payload : List Byte)
    (h : s.mboxCmd.toNat < cmdMax),
    s.inputs = .poll answer :: rest → s.mboxFull = true → s.mailboxBytes = .ok payload →
    (s.cfg.forwardEn = false ∨ s.fwdValid[s.mboxCmd.toNat] = false) →
    s.handlerValid[s.mboxCmd.toNat] = false →
      let sent := writeLoop s.cfg.txRetryDelayMs (serializeResponse s.cfg 132#8 [])
        s.cfg.txRetryMax s.txAnswers
      step s = .next { s with
        inputs := rest
        mboxFull := false
        out := s.out ++ sent.1
        txAnswers := sent.2 }

/-- The two halves of a Request together: its last byte submits it, and the next `POLL` hands its payload,
whole, to the handler of its command and sends the mapped answer (43_commands R170). -/
def Obligations.RequestReachesItsHandler : Prop :=
  ∀ (s : State) (payload : List Byte) (checksum : Option Word) (i : Instr) (cmd : Byte)
    (answer : CallAnswer) (h : cmd.toNat < cmdMax),
    (i, cmd) ∈ requestForms (.complete payload checksum footerMagic) →
    payload.length ≤ maxDataSize →
    (s.cfg.checksumMode ≠ .absent →
      checksum = some (checksumOf s.cfg (coveredBytes s.cfg reqMagic cmd payload))) →
    s.mboxFull = false →
    (s.cfg.forwardEn = false ∨ s.fwdValid[cmd.toNat] = false) → s.handlerValid[cmd.toNat] = true →
      let response : Byte × List Byte :=
        match answer with
        | .ok p => (0#8, p.take s.cfg.respBufCap)
        | .err code => (code, [])
      let sent := writeLoop s.cfg.txRetryDelayMs
        (serializeResponse s.cfg response.1 response.2) s.cfg.txRetryMax s.txAnswers
      ∃ t u, exec i s = .next t ∧ step { t with inputs := [.poll answer] } = .next u ∧
        u.mboxFull = false ∧ u.inputs = [] ∧
        u.out = s.out ++ [.rxOutcome (.frame .request cmd payload),
          .handlerCall s.handlerId[cmd.toNat] cmd payload] ++ sent.1

/-- `REG_HANDLER` of a command below `CMD_MAX` writes that entry and no other, and the last registration
wins; of any other command it changes no state and is logged (42_mailbox_dispatch R152). -/
def Obligations.RegisterHandlerWritesItsEntry : Prop :=
  ∀ (s : State) (cmd : Byte) (hid : HandlerId) (rest : List Event),
    s.inputs = .regHandler cmd hid :: rest →
      (cmd.toNat < cmdMax → ∃ t, step s = .next t ∧
        (∀ c (h : c < cmdMax), t.handlerValid[c] = (if c = cmd.toNat then true else s.handlerValid[c]) ∧
          t.handlerId[c] = (if c = cmd.toNat then hid else s.handlerId[c])) ∧
        t = { s with inputs := rest, handlerValid := t.handlerValid, handlerId := t.handlerId }) ∧
      (cmdMax ≤ cmd.toNat →
        step s = .next { s with inputs := rest, out := s.out ++ [.log .cfgRefused] })

/-- `REG_FORWARD` of a command below `CMD_MAX` writes that entry and no other, and the last registration
wins; of any other command it changes no state and is logged (42_mailbox_dispatch R153). -/
def Obligations.RegisterForwardWritesItsEntry : Prop :=
  ∀ (s : State) (cmd : Byte) (target : CtxId) (rest : List Event),
    s.inputs = .regForward cmd target :: rest →
      (cmd.toNat < cmdMax → ∃ t, step s = .next t ∧
        (∀ c (h : c < cmdMax), t.fwdValid[c] = (if c = cmd.toNat then true else s.fwdValid[c]) ∧
          t.fwdTarget[c] = (if c = cmd.toNat then target else s.fwdTarget[c])) ∧
        t = { s with inputs := rest, fwdValid := t.fwdValid, fwdTarget := t.fwdTarget }) ∧
      (cmdMax ≤ cmd.toNat →
        step s = .next { s with inputs := rest, out := s.out ++ [.log .cfgRefused] })

/-- A registration of a command id of `CMD_MAX` or above changes no state and is logged; and no event but
`RESET` removes a registration (42_mailbox_dispatch R154). -/
def Obligations.OutOfRangeRegistrationRefusedNoneRemoved : Prop :=
  (∀ (s : State) (e : Event) (rest : List Event) (cmd : Byte),
    s.inputs = e :: rest → cmdMax ≤ cmd.toNat →
    ((∃ hid, e = .regHandler cmd hid) ∨ ∃ target, e = .regForward cmd target) →
      step s = .next { s with inputs := rest, out := s.out ++ [.log .cfgRefused] }) ∧
  (∀ (s t : State) (c : Nat) (h : c < cmdMax), step s = .next t →
    (∀ rest, s.inputs ≠ .reset :: rest) →
      (s.handlerValid[c] = true → t.handlerValid[c] = true) ∧
        (s.fwdValid[c] = true → t.fwdValid[c] = true))

/-! ### Sending (44_transmit) -/

/-- `1 + TX_RETRY_MAX` answers `Busy`: that many attempts of the same frame with a delay between two of
them, then the log and no more (44_transmit R204, R203). -/
def Obligations.SendGivesUpAfterItsBudget : Prop :=
  ∀ (delay retries : Nat) (frame : List Byte) (answers : List WriteAnswer),
    writeLoop delay frame retries (List.replicate (retries + 1) .busy ++ answers) =
      ((List.replicate retries [OutEvent.txAttempt frame, .txDelay delay]).flatten ++
        [.txAttempt frame, .log .txGiveUp], answers)

/-- The first answer that is not `Busy`, within the budget, ends the send: `Ok` silently, `Err` with the
log and no further attempt (44_transmit R201, R205). -/
def Obligations.SendEndsAtTheFirstAnswerThatIsNotBusy : Prop :=
  ∀ (delay retries k : Nat) (frame : List Byte) (answers : List WriteAnswer), k ≤ retries →
    writeLoop delay frame retries (List.replicate k .busy ++ .ok :: answers) =
        ((List.replicate k [OutEvent.txAttempt frame, .txDelay delay]).flatten ++
          [.txAttempt frame], answers) ∧
      writeLoop delay frame retries (List.replicate k .busy ++ .err :: answers) =
        ((List.replicate k [OutEvent.txAttempt frame, .txDelay delay]).flatten ++
          [.txAttempt frame, .log .txError], answers)

/-- Whatever the transport answers, one send makes at least one attempt and at most `1 + TX_RETRY_MAX`,
all of the same frame, with one delay fewer than attempts (44_transmit R201, R203). -/
def Obligations.SendIsBounded : Prop :=
  ∀ (delay retries : Nat) (frame : List Byte) (answers : List WriteAnswer),
    let trace := (writeLoop delay frame retries answers).1
    let attempts := trace.count (.txAttempt frame)
    1 ≤ attempts ∧ attempts ≤ 1 + retries ∧ trace.count (.txDelay delay) = attempts - 1 ∧
      ∀ e ∈ trace, e = .txAttempt frame ∨ e = .txDelay delay ∨ e = .log .txGiveUp ∨ e = .log .txError

/-- The block never sends a Request: every event but `RESET` only appends to the trace, and every frame it
appends an attempt of is a serialised Response whose payload fits the response buffer (44_transmit R207,
R200; 10_state R40). -/
def Obligations.OnlyResponsesAreSent : Prop :=
  ∀ (s t : State), step s = .next t → (∀ rest, s.inputs ≠ .reset :: rest) →
    ∃ new, t.out = s.out ++ new ∧ ∀ frame, OutEvent.txAttempt frame ∈ new →
      ∃ status payload, frame = serializeResponse s.cfg status payload ∧
        payload.length ≤ s.cfg.respBufCap

/-! ### The whole machine -/

/-- What 10_state R44 states of the state after reset, where it states a value. -/
def Obligations.ResetStateHasTheStatedValues : Prop :=
  State.reset.len = 0 ∧ State.reset.headerValidated = false ∧ State.reset.mboxFull = false ∧
    (∀ c (h : c < cmdMax), State.reset.handlerValid[c] = false ∧ State.reset.fwdValid[c] = false) ∧
    State.reset.out = []

/-- A `RESET` at any time discards a partial frame, a pending Request and all registrations without any
output (70_reset_and_hazards R260). -/
def Obligations.ResetEventDiscardsEverything : Prop :=
  ∀ (s : State) (rest : List Event), s.inputs = .reset :: rest →
    ∃ t, step s = .next t ∧ t.len = 0 ∧ t.headerValidated = false ∧ t.mboxFull = false ∧
      (∀ c (h : c < cmdMax), t.handlerValid[c] = false ∧ t.fwdValid[c] = false) ∧
      t.out = [] ∧ t.cfg = s.cfg ∧ t.inputs = rest

/-- With no event offered the block is idle, with all state retained (60_exceptions R245). -/
def Obligations.IdleKeepsAllState : Prop :=
  ∀ s : State, s.inputs = [] → step s = .next s

/-- The state after reset meets the invariant of 10_state R34. -/
def Obligations.ResetMeetsTheInvariant : Prop := State.reset.Inv

/-- Every event keeps the invariant of 10_state R34. -/
def Obligations.StepKeepsTheInvariant : Prop :=
  ∀ s t : State, s.Inv → step s = .next t → t.Inv

/-- Every frame keeps the invariant, from whatever state that meets it exec is applied. -/
def Obligations.ExecKeepsTheInvariant : Prop :=
  ∀ (i : Instr) (s t : State), s.Inv → exec i s = .next t → t.Inv

/-- No unspecified value is ever read and the block never stops: from a state that meets the invariant
every event gives a next state, never a fault and never a refusal (70_reset_and_hazards R262, 60_exceptions R236). -/
def Obligations.StepNeverStops : Prop :=
  ∀ s : State, s.Inv → ∃ t, step s = .next t

/-- No unspecified value is ever read: of two states that agree on everything but the elements 70_reset
R262 lists (the cells of `buf` at `len` and above, `last_activity` on an empty buffer, the mailbox while it
is empty, the tokens of entries that are not valid), a next state of the one is matched by a next state of
the other, and the two agree again, their traces included. So no value the model gives these elements
(log 5) can show. -/
def Obligations.UnspecifiedValuesAreNeverRead : Prop :=
  ∀ s t s' : State, s.Inv → s.Agrees t → step s = .next s' →
    ∃ t', step t = .next t' ∧ s'.Agrees t'

/-- Only a received byte or a `RESET` moves the reassembler: no other event writes `len`,
`header_validated`, `last_activity` or a cell of `buf` (10_state R24, R22). -/
def Obligations.OnlyReceptionMovesTheReassembler : Prop :=
  ∀ (s t : State) (e : Event) (rest : List Event), s.inputs = e :: rest → step s = .next t →
    (∀ b tick, e ≠ .rxByte b tick) → (∀ tick, e ≠ .pop tick) → e ≠ .reset →
      t.len = s.len ∧ t.headerValidated = s.headerValidated ∧ t.lastActivity = s.lastActivity ∧
        ∀ a, t.buf.read a = s.buf.read a

/-- The dispatch tables are written only by their registration event and cleared only by `RESET`
(10_state R30, R31, R33). -/
def Obligations.OnlyRegistrationWritesTheTables : Prop :=
  ∀ (s t : State) (e : Event) (rest : List Event), s.inputs = e :: rest → step s = .next t →
    e ≠ .reset →
      ((∀ cmd hid, e ≠ .regHandler cmd hid) →
        t.handlerValid = s.handlerValid ∧ t.handlerId = s.handlerId) ∧
      ((∀ cmd target, e ≠ .regForward cmd target) →
        t.fwdValid = s.fwdValid ∧ t.fwdTarget = s.fwdTarget)

/-- At most one: a pending Request stays as it is, in every cell, until a `POLL` or a `RESET`, whatever
else arrives (42_mailbox_dispatch R142, 20_memory R59). -/
def Obligations.PendingRequestIsNeverAltered : Prop :=
  ∀ (s t : State) (e : Event) (rest : List Event), s.inputs = e :: rest → step s = .next t →
    s.mboxFull = true → (∀ answer, e ≠ .poll answer) → e ≠ .reset →
      t.mboxFull = true ∧ t.mboxCmd = s.mboxCmd ∧ t.mboxLen = s.mboxLen ∧
        ∀ a, t.mboxData.read a = s.mboxData.read a

/-- The static configuration is written by no event (10_state R32). -/
def Obligations.ConfigurationIsFixed : Prop :=
  ∀ s t : State, step s = .next t → t.cfg = s.cfg

/-- The sizes of 00_scope R8 in each build: header, checksum, footer and capacity, the count of command
ids, and `LEN_W`, the bits needed to hold 0..`CAPACITY`. -/
def Obligations.DerivedSizes : Prop :=
  headerSize = 7 ∧ cmdMax = 9 ∧ lenW = 12 ∧
    ∀ c : Config,
      (c.checksumMode = .absent → checksumSize c = 0 ∧ footerSize c = 4 ∧ capacity c = 2059) ∧
      (c.checksumMode ≠ .absent → checksumSize c = 4 ∧ footerSize c = 8 ∧ capacity c = 2063) ∧
      2 ^ (lenW - 1) ≤ capacity c ∧ capacity c < 2 ^ lenW

/-- The `LEN_W`-bit fill position never wraps: a byte that `AppendByte` takes, in any state, moves it up
by exactly 1 as a number, and never past `CAPACITY` (10_state R24, 40_reassembler R112 (a)). -/
def Obligations.FillPositionNeverWraps : Prop :=
  ∀ (s u : State) (b : Byte), appendByte b s = some u →
    u.len.toNat = s.len.toNat + 1 ∧ u.len.toNat ≤ capacity s.cfg
end

