-- ==== Sys2Proof/Laws/Encoding.lean ====
section
/-! SUPPORT. The byte-order helpers invert each other, the lengths of every part of a frame, and what the
header test finds in a header that was encoded. -/

namespace Sys2Proof

theorem headerSize_eq : headerSize = 7 := rfl
@[simp] theorem magicSize_eq : magicSize = 4 := rfl
theorem maxDataSize_eq : maxDataSize = 2048 := rfl
theorem staleTimeout_eq : staleTimeout = 1000 := rfl

theorem footerSize_cases (c : Config) :
    (c.hasChecksum = true ∧ checksumSize c = 4 ∧ footerSize c = 8) ∨
      (c.hasChecksum = false ∧ checksumSize c = 0 ∧ footerSize c = 4) := by
  unfold footerSize checksumSize
  cases c.hasChecksum <;> simp

theorem footerSize_bounds (c : Config) : 4 ≤ footerSize c ∧ footerSize c ≤ 8 := by
  rcases footerSize_cases c with ⟨_, _, h⟩ | ⟨_, _, h⟩ <;> omega

theorem frameLength_eq (c : Config) (n : Nat) : frameLength c n = 7 + n + footerSize c := rfl

theorem capacity_eq (c : Config) : capacity c = 2055 + footerSize c := by
  rfl

/-- `LEN_W` bits hold 0..`CAPACITY` (00_scope R8). -/
theorem capacity_lt (c : Config) : capacity c < 2 ^ lenW := by
  rcases footerSize_cases c with ⟨_, _, h⟩ | ⟨_, _, h⟩ <;> rw [capacity_eq, h] <;> decide

theorem two_pow_lenW : 2 ^ lenW = 4096 := rfl

/-- A count is a numeral when its value is. -/
theorem count_eq_iff {x : Count} {n : Nat} (h : n < 2 ^ lenW) :
    x = BitVec.ofNat lenW n ↔ x.toNat = n := by
  rw [BitVec.toNat_eq, BitVec.toNat_ofNat, Nat.mod_eq_of_lt h]

/-- A legal `data_size` fits a `LEN_W`-bit count. -/
theorem count_toNat {n : Nat} (h : n ≤ maxDataSize) : (BitVec.ofNat lenW n).toNat = n := by
  rw [BitVec.toNat_ofNat, Nat.mod_eq_of_lt (Nat.lt_of_le_of_lt h (by decide))]

theorem frameLength_le_capacity {c : Config} {n : Nat} (h : n ≤ maxDataSize) :
    frameLength c n ≤ capacity c := by
  rw [frameLength_eq, capacity_eq]
  simp only [maxDataSize_eq] at h
  omega

/-! ### Assembly and its inverse (00_scope R11) -/

theorem byteOf_toNat (v i : Nat) : (byteOf v i).toNat = v / 256 ^ i % 256 := by simp [byteOf]

theorem joinHalf_bytes (v : Half) : joinHalf (byteOf v.toNat 0) (byteOf v.toNat 1) = v := by
  apply BitVec.eq_of_toNat_eq
  have h := v.isLt
  simp only [joinHalf, byteOf_toNat, BitVec.toNat_ofNat]
  omega

theorem joinWord_bytes (v : Word) :
    joinWord (byteOf v.toNat 0) (byteOf v.toNat 1) (byteOf v.toNat 2) (byteOf v.toNat 3) = v := by
  apply BitVec.eq_of_toNat_eq
  have h := v.isLt
  simp only [joinWord, byteOf_toNat, BitVec.toNat_ofNat]
  omega

@[simp] theorem half16_bytes16 (o : WireOrder) (v : Half) (rest : List Byte) :
    half16 o (bytes16 o v ++ rest) = v := by
  cases o <;> simp [half16, bytes16, joinHalf_bytes]

@[simp] theorem word32_bytes32 (o : WireOrder) (v : Word) (rest : List Byte) :
    word32 o (bytes32 o v ++ rest) = v := by
  cases o <;> simp [word32, bytes32, joinWord_bytes]

@[simp] theorem bytes16_length (o : WireOrder) (v : Half) : (bytes16 o v).length = 2 := by
  cases o <;> rfl

@[simp] theorem bytes32_length (o : WireOrder) (v : Word) : (bytes32 o v).length = 4 := by
  cases o <;> rfl

/-- The value of a length that fits `data_size`. -/
theorem sizeField_toNat {n : Nat} (h : n ≤ maxDataSize) : (BitVec.ofNat 16 n).toNat = n := by
  simp only [maxDataSize_eq] at h
  simp only [BitVec.toNat_ofNat]
  omega

/-! ### Lengths -/

@[simp] theorem headerBytes_length (c : Config) (magic : Word) (selector : Byte) (size : Half) :
    (headerBytes c magic selector size).length = 7 := by simp [headerBytes]

@[simp] theorem coveredBytes_length (c : Config) (magic : Word) (selector : Byte)
    (payload : List Byte) : (coveredBytes c magic selector payload).length = 7 + payload.length := by
  simp [coveredBytes]

theorem footerBytes_length (c : Config) (checksum : Option Word) (footer : Word) :
    (footerBytes c checksum footer).length = (if checksum.isSome then 4 else 0) + 4 := by
  cases checksum <;> simp [footerBytes]

/-! ### The header test on an encoded header -/

/-- The verdict depends on the first seven bytes only. -/
theorem judgeHeader_append (c : Config) (hdr rest : List Byte) (h : hdr.length = 7) :
    judgeHeader c (hdr ++ rest) = judgeHeader c hdr := by
  match hdr, h with
  | [b0, b1, b2, b3, b4, b5, b6], _ =>
    obtain ⟨_, _, o, _, _, _, _, _, _⟩ := c
    cases o <;> rfl

theorem judgeHeader_take (c : Config) (bytes : List Byte) (h : 7 ≤ bytes.length) :
    judgeHeader c (bytes.take 7) = judgeHeader c bytes := by
  conv_rhs => rw [← List.take_append_drop 7 bytes]
  rw [judgeHeader_append]
  simp
  omega

theorem reqMagic_ne_respMagic : reqMagic ≠ respMagic := by decide

/-- The three fields of an encoded header, read back at their offsets. -/
theorem headerBytes_fields (c : Config) (magic : Word) (selector : Byte) (size : Half)
    (rest : List Byte) :
    word32 c.wireOrder (headerBytes c magic selector size ++ rest) = magic ∧
      (headerBytes c magic selector size ++ rest).getD 4 0#8 = selector ∧
      half16 c.wireOrder ((headerBytes c magic selector size ++ rest).drop 5) = size := by
  refine ⟨by simp [headerBytes], ?_, ?_⟩
  · simp only [headerBytes, List.append_assoc, List.getD_eq_getElem?_getD]
    rw [List.getElem?_append_right (by simp)]
    simp
  · have h5 : (bytes32 c.wireOrder magic ++ [selector]).length = 5 := by simp
    have : (headerBytes c magic selector size ++ rest).drop 5 =
        bytes16 c.wireOrder size ++ rest := by
      simp only [headerBytes]
      rw [List.append_assoc, List.drop_append_of_le_length (by omega),
        List.drop_eq_nil_of_le (by omega), List.nil_append]
    rw [this, half16_bytes16]

/-- The verdict on an encoded Request header. -/
theorem judgeHeader_request (c : Config) (selector : Byte) (size : Half) (rest : List Byte) :
    judgeHeader c (headerBytes c reqMagic selector size ++ rest) =
      if cmdMax ≤ selector.toNat then .badCommand selector size
      else judgeSize .request selector size := by
  obtain ⟨hm, hs, hz⟩ := headerBytes_fields c reqMagic selector size rest
  simp only [judgeHeader, hm, hs, hz, if_true]

/-- The verdict on an encoded Response header. -/
theorem judgeHeader_response (c : Config) (selector : Byte) (size : Half) (rest : List Byte) :
    judgeHeader c (headerBytes c respMagic selector size ++ rest) =
      judgeSize .response selector size := by
  obtain ⟨hm, hs, hz⟩ := headerBytes_fields c respMagic selector size rest
  simp only [judgeHeader, hm, hs, hz, if_neg (Ne.symm reqMagic_ne_respMagic), if_true]

theorem judgeSize_legal {dir dir' : Direction} {selector selector' : Byte} {size size' : Half} :
    judgeSize dir selector size = .legal dir' selector' size' ↔
      dir = dir' ∧ selector = selector' ∧ size = size' ∧ size.toNat ≤ maxDataSize := by
  unfold judgeSize
  split
  · simp only [reduceCtorEq, false_iff, not_and]
    intros
    omega
  · simp only [HeaderVerdict.legal.injEq]
    constructor
    · rintro ⟨h1, h2, h3⟩
      exact ⟨h1, h2, h3, by omega⟩
    · rintro ⟨h1, h2, h3, _⟩
      exact ⟨h1, h2, h3⟩

/-- What a legal verdict certifies (10_state R34 (c)). -/
theorem judgeHeader_legal {c : Config} {hdr : List Byte} {dir : Direction} {selector : Byte}
    {size : Half} (h : judgeHeader c hdr = .legal dir selector size) :
    word32 c.wireOrder hdr = dir.magic ∧ hdr.getD 4 0#8 = selector ∧
      half16 c.wireOrder (hdr.drop 5) = size ∧ size.toNat ≤ maxDataSize ∧
      (dir = .request → selector.toNat < cmdMax) := by
  unfold judgeHeader at h
  simp only at h
  split at h
  · rename_i hm
    split at h
    · cases h
    · rename_i hc
      obtain ⟨rfl, rfl, rfl, hz⟩ := judgeSize_legal.mp h
      exact ⟨hm, rfl, rfl, hz, fun _ => by omega⟩
  · split at h
    · rename_i hm
      obtain ⟨rfl, rfl, rfl, hz⟩ := judgeSize_legal.mp h
      exact ⟨hm, rfl, rfl, hz, fun hd => by cases hd⟩
    · cases h

/-- The verdict on the header of a direction whose selector and size are legal. -/
theorem judgeHeader_headerBytes (c : Config) {dir : Direction} {selector : Byte} {size : Half}
    (rest : List Byte) (hs : dir = .request → selector.toNat < cmdMax)
    (hz : size.toNat ≤ maxDataSize) :
    judgeHeader c (headerBytes c dir.magic selector size ++ rest) = .legal dir selector size := by
  cases dir with
  | request =>
    have := hs rfl
    rw [Direction.magic, judgeHeader_request, if_neg (by omega), judgeSize, if_neg (by omega)]
  | response => rw [Direction.magic, judgeHeader_response, judgeSize, if_neg (by omega)]

/-! ### Instructions and their selectors -/

@[simp] theorem requestInstr_head {selector : Byte} (h : selector.toNat < cmdMax) (t : Tail) :
    (requestInstr selector t).head = (.request, selector) := by
  unfold requestInstr
  repeat' split
  all_goals (subst_vars; rfl)

@[simp] theorem responseInstr_head (selector : Byte) (t : Tail) :
    (responseInstr selector t).head = (.response, selector) := by
  unfold responseInstr
  repeat' split
  all_goals (subst_vars; rfl)

/-- A command id below `CMD_MAX` is one of the nine listed. -/
theorem selector_cases {selector : Byte} (h : selector.toNat < cmdMax) :
    selector = 0#8 ∨ selector = 1#8 ∨ selector = 2#8 ∨ selector = 3#8 ∨ selector = 4#8 ∨
      selector = 5#8 ∨ selector = 6#8 ∨ selector = 7#8 ∨ selector = 8#8 := by
  have hc : selector.toNat < 9 := h
  have key : selector.toNat = 0 ∨ selector.toNat = 1 ∨ selector.toNat = 2 ∨ selector.toNat = 3 ∨
      selector.toNat = 4 ∨ selector.toNat = 5 ∨ selector.toNat = 6 ∨ selector.toNat = 7 ∨
      selector.toNat = 8 := by omega
  rcases key with h | h | h | h | h | h | h | h | h <;>
    simp only [BitVec.toNat_eq, h, BitVec.toNat_ofNat] <;> simp

@[simp] theorem requestInstr_tail {selector : Byte} (h : selector.toNat < cmdMax) (t : Tail) :
    (requestInstr selector t).tail = t := by
  rcases selector_cases h with rfl | rfl | rfl | rfl | rfl | rfl | rfl | rfl | rfl <;> rfl

@[simp] theorem responseInstr_tail (selector : Byte) (t : Tail) :
    (responseInstr selector t).tail = t := by
  unfold responseInstr
  repeat' split
  all_goals rfl

/-! ### From the bytes back to the fields -/

theorem bytes16_half16 (o : WireOrder) (a b : Byte) : bytes16 o (half16 o [a, b]) = [a, b] := by
  have ha := a.isLt
  have hb := b.isLt
  cases o <;>
    simp only [half16, bytes16, joinHalf, byteOf, List.getD_cons_zero, List.getD_cons_succ,
      List.cons.injEq, and_true, BitVec.toNat_eq, BitVec.toNat_ofNat] <;> omega

theorem bytes32_word32 (o : WireOrder) (a b c d : Byte) :
    bytes32 o (word32 o [a, b, c, d]) = [a, b, c, d] := by
  have ha := a.isLt
  have hb := b.isLt
  have hc := c.isLt
  have hd := d.isLt
  cases o <;>
    simp only [word32, bytes32, joinWord, byteOf, List.getD_cons_zero, List.getD_cons_succ,
      List.cons.injEq, and_true, BitVec.toNat_eq, BitVec.toNat_ofNat] <;> omega

/-- The first four bytes, assembled and taken apart again. -/
theorem bytes32_append_drop (o : WireOrder) (bytes : List Byte) (h : 4 ≤ bytes.length) :
    bytes32 o (word32 o bytes) ++ bytes.drop 4 = bytes := by
  match bytes, h with
  | a :: b :: c :: d :: rest, _ =>
    have hw : word32 o (a :: b :: c :: d :: rest) = word32 o [a, b, c, d] := by cases o <;> rfl
    rw [hw, bytes32_word32]
    rfl

/-- The header in front of a byte sequence, encoded again from its three fields. -/
theorem headerBytes_append_drop {c : Config} {bytes : List Byte} {magic : Word} {selector : Byte}
    {size : Half} (h : 7 ≤ bytes.length) (hm : word32 c.wireOrder bytes = magic)
    (hs : bytes.getD 4 0#8 = selector) (hz : half16 c.wireOrder (bytes.drop 5) = size) :
    headerBytes c magic selector size ++ bytes.drop 7 = bytes := by
  subst hm hs hz
  match bytes, h with
  | b0 :: b1 :: b2 :: b3 :: b4 :: b5 :: b6 :: rest, _ =>
    have hw : word32 c.wireOrder (b0 :: b1 :: b2 :: b3 :: b4 :: b5 :: b6 :: rest) =
        word32 c.wireOrder [b0, b1, b2, b3] := by cases c.wireOrder <;> rfl
    have hh : half16 c.wireOrder (b5 :: b6 :: rest) = half16 c.wireOrder [b5, b6] := by
      cases c.wireOrder <;> rfl
    simp only [headerBytes, List.drop_succ_cons, List.drop_zero, List.getD_cons_succ,
      List.getD_cons_zero, hw, hh, bytes32_word32, bytes16_half16]
    rfl

/-- What an illegal command says of the header. -/
theorem judgeHeader_badCommand {c : Config} {hdr : List Byte} {selector : Byte} {size : Half}
    (h : judgeHeader c hdr = .badCommand selector size) :
    word32 c.wireOrder hdr = reqMagic ∧ hdr.getD 4 0#8 = selector ∧
      half16 c.wireOrder (hdr.drop 5) = size ∧ cmdMax ≤ selector.toNat := by
  unfold judgeHeader judgeSize at h
  simp only at h
  split at h
  · split at h
    · cases h
      exact ⟨by assumption, rfl, rfl, by assumption⟩
    · split at h <;> cases h
  · split at h
    · split at h <;> cases h
    · cases h

/-- What an oversize `data_size` says of the header. -/
theorem judgeHeader_tooLarge {c : Config} {hdr : List Byte} {dir : Direction} {selector : Byte}
    {size : Half} (h : judgeHeader c hdr = .tooLarge dir selector size) :
    word32 c.wireOrder hdr = dir.magic ∧ hdr.getD 4 0#8 = selector ∧
      half16 c.wireOrder (hdr.drop 5) = size ∧ maxDataSize < size.toNat ∧
      (dir = .request → selector.toNat < cmdMax) := by
  unfold judgeHeader judgeSize at h
  simp only at h
  split at h
  · split at h
    · cases h
    · split at h
      · cases h
        exact ⟨by assumption, rfl, rfl, by assumption, fun _ => by omega⟩
      · cases h
  · split at h
    · split at h
      · cases h
        exact ⟨by assumption, rfl, rfl, by assumption, nofun⟩
      · cases h
    · cases h

/-- The encoding of the instruction of a direction, a selector and operands. -/
theorem encode_instrOf (c : Config) (dir : Direction) (selector : Byte) (t : Tail)
    (h : dir = .request → selector.toNat < cmdMax) :
    encode c (instrOf dir selector t) =
      match t with
      | .complete payload checksum footer =>
          coveredBytes c dir.magic selector payload ++ footerBytes c checksum footer
      | .oversize size => headerBytes c dir.magic selector size := by
  cases dir with
  | request => simp only [encode, instrOf, requestInstr_head (h rfl), requestInstr_tail (h rfl)] <;> rfl
  | response => simp only [encode, instrOf, responseInstr_head, responseInstr_tail] <;> rfl

/-- The instruction of a direction, a selector and operands that fit is well-formed. -/
theorem wellFormed_instrOf (c : Config) (dir : Direction) (selector : Byte) (t : Tail)
    (h : dir = .request → selector.toNat < cmdMax) (ht : t.fits c = true) :
    (instrOf dir selector t).wellFormed c = true := by
  cases dir with
  | request =>
    rcases selector_cases (h rfl) with rfl | rfl | rfl | rfl | rfl | rfl | rfl | rfl | rfl <;>
      exact ht
  | response =>
    simp only [instrOf]
    unfold responseInstr
    repeat' split
    all_goals first | exact ht | skip
    rename_i h0 h1 h2 h3 h4 h5 h6 h7 h8
    simp only [Instr.wellFormed, ht, Bool.and_true, statusNamed]
    simp only [BitVec.toNat_eq, BitVec.toNat_ofNat] at h0 h1 h2 h3 h4 h5 h6 h7 h8
    simp only [Bool.not_eq_true', Bool.or_eq_false_iff, decide_eq_false_iff_not,
      Bool.and_eq_false_iff]
    omega

end Sys2Proof
end

