-- ==== Sys2Proof/Laws/Codec.lean ====
section
/-! SUPPORT. What the decoder answers, once: its inversion lemma, and the operands it reads from the bytes
of an encoded frame. -/

namespace Sys2Proof

/-- Everything the decoder can answer with. -/
theorem decode_cases {c : Config} {bytes rest : List Byte} {i : Instr}
    (h : decode c bytes = .ok (i, rest)) :
    7 ≤ bytes.length ∧
    ((∃ selector size, judgeHeader c bytes = .badCommand selector size ∧
        i = .reqIllegal selector size ∧ rest = bytes.drop 7) ∨
      (∃ dir selector size, judgeHeader c bytes = .tooLarge dir selector size ∧
        i = instrOf dir selector (.oversize size) ∧ rest = bytes.drop 7) ∨
      (∃ dir selector size, judgeHeader c bytes = .legal dir selector size ∧
        frameLength c size.toNat ≤ bytes.length ∧
        i = instrOf dir selector (completeTail c size.toNat bytes) ∧
        rest = bytes.drop (frameLength c size.toNat))) := by
  unfold decode at h
  split at h
  · cases h
  · rename_i hl
    simp only [headerSize_eq] at hl
    refine ⟨by omega, ?_⟩
    split at h
    · cases h
    · rename_i hj
      simp only [Except.ok.injEq, Prod.mk.injEq] at h
      exact .inl ⟨_, _, hj, h.1.symm, h.2.symm⟩
    · rename_i hj
      simp only [Except.ok.injEq, Prod.mk.injEq] at h
      exact .inr (.inl ⟨_, _, _, hj, h.1.symm, h.2.symm⟩)
    · rename_i hj
      split at h
      · cases h
      · rename_i hf
        simp only [Except.ok.injEq, Prod.mk.injEq] at h
        exact .inr (.inr ⟨_, _, _, hj, by omega, h.1.symm, h.2.symm⟩)

theorem decode_of_badCommand {c : Config} {bytes : List Byte} {selector : Byte} {size : Half}
    (hl : 7 ≤ bytes.length) (hj : judgeHeader c bytes = .badCommand selector size) :
    decode c bytes = .ok (.reqIllegal selector size, bytes.drop 7) := by
  unfold decode
  rw [if_neg (by rw [headerSize_eq]; omega), hj]
  rfl

theorem decode_of_tooLarge {c : Config} {bytes : List Byte} {dir : Direction} {selector : Byte}
    {size : Half} (hl : 7 ≤ bytes.length) (hj : judgeHeader c bytes = .tooLarge dir selector size) :
    decode c bytes = .ok (instrOf dir selector (.oversize size), bytes.drop 7) := by
  unfold decode
  rw [if_neg (by rw [headerSize_eq]; omega), hj]
  rfl

theorem decode_of_legal {c : Config} {bytes : List Byte} {dir : Direction} {selector : Byte}
    {size : Half} (hj : judgeHeader c bytes = .legal dir selector size)
    (hl : frameLength c size.toNat ≤ bytes.length) :
    decode c bytes = .ok (instrOf dir selector (completeTail c size.toNat bytes),
      bytes.drop (frameLength c size.toNat)) := by
  have h7 : 7 ≤ bytes.length := by rw [frameLength_eq] at hl; omega
  unfold decode
  rw [if_neg (by rw [headerSize_eq]; omega), hj]
  simp only
  rw [if_neg (by omega)]

/-- The operands in a covered part, footer and whatever follows (20_memory R51). -/
theorem completeTail_bytes (c : Config) (magic : Word) (selector : Byte) (payload rest : List Byte)
    (checksum : Option Word) (footer : Word) (hc : checksum.isSome = c.hasChecksum) :
    completeTail c payload.length
        (coveredBytes c magic selector payload ++ footerBytes c checksum footer ++ rest) =
      .complete payload checksum footer := by
  have h7 : (headerBytes c magic selector (BitVec.ofNat 16 payload.length)).length = 7 := by simp
  have hd7 : (coveredBytes c magic selector payload ++ footerBytes c checksum footer ++ rest).drop 7 =
      payload ++ (footerBytes c checksum footer ++ rest) := by
    simp only [coveredBytes, List.append_assoc]
    rw [List.drop_append_of_le_length (by omega), List.drop_eq_nil_of_le (by omega),
      List.nil_append]
  have hdp : (coveredBytes c magic selector payload ++ footerBytes c checksum footer ++ rest).drop
      (7 + payload.length) = footerBytes c checksum footer ++ rest := by
    rw [← List.drop_drop, hd7, List.drop_append_of_le_length (by omega),
      List.drop_eq_nil_of_le (by omega), List.nil_append]
  simp only [completeTail, headerSize_eq, hd7, hdp]
  rcases footerSize_cases c with ⟨hs, hk, _⟩ | ⟨hs, hk, _⟩
  · obtain ⟨v, rfl⟩ := Option.isSome_iff_exists.mp (hc.trans hs)
    have hdc : (coveredBytes c magic selector payload ++ footerBytes c (some v) footer ++ rest).drop
        (7 + payload.length + 4) = bytes32 c.wireOrder footer ++ rest := by
      rw [← List.drop_drop, hdp]
      simp only [footerBytes, List.append_assoc]
      rw [List.drop_append_of_le_length (by simp), List.drop_eq_nil_of_le (by simp),
        List.nil_append]
    simp only [hs, hk, hdc, word32_bytes32]
    simp [footerBytes]
  · have hn : checksum = none := by
      cases checksum with
      | none => rfl
      | some v => simp [hs] at hc
    subst hn
    simp only [hs, hk, Nat.add_zero, hdp]
    simp [footerBytes]

end Sys2Proof
end

