-- ==== Sys2Proof/Laws/Memory.lean ====
section
/-! SUPPORT. The laws of the byte stores: a read after a write, and that every write keeps the canonical
form and the address range. -/

namespace Sys2Proof.Machine

@[simp] theorem Memory.read_nil (a : Nat) : Memory.read [] a = none := rfl

theorem Memory.read_eq_none_of_lt {m : Memory} {a : Nat} (h : ∀ x ∈ m, a < x.1) :
    m.read a = none := by
  induction m with
  | nil => rfl
  | cons x m ih =>
    obtain ⟨k, v⟩ := x
    have hk : a < k := h (k, v) (by simp)
    simp only [Memory.read, if_neg (Nat.ne_of_lt hk)]
    exact ih fun y hy => h y (by simp [hy])

theorem Memory.read_write (m : Memory) (a b : Nat) (v : Byte) :
    (m.write a v).read b = if b = a then some v else m.read b := by
  induction m with
  | nil => simp [Memory.write, Memory.read]
  | cons x m ih =>
    obtain ⟨k, w⟩ := x
    unfold Memory.write
    by_cases h1 : a < k
    · simp [h1, Memory.read]
    · by_cases h2 : a = k
      · subst h2; by_cases h3 : b = a <;> simp [Memory.read, h3]
      · simp only [if_neg h1, if_neg h2, Memory.read, ih]
        by_cases h3 : b = k
        · subst h3; simp [Ne.symm h2]
        · simp [h3]

@[simp] theorem Memory.read_write_same (m : Memory) (a : Nat) (v : Byte) :
    (m.write a v).read a = some v := by simp [Memory.read_write]

theorem Memory.read_write_other (m : Memory) {a b : Nat} (v : Byte) (h : b ≠ a) :
    (m.write a v).read b = m.read b := by simp [Memory.read_write, h]

theorem Memory.mem_write {m : Memory} {a : Nat} {v : Byte} {x : Host.Cell}
    (h : x ∈ m.write a v) : x = (a, v) ∨ x ∈ m := by
  induction m with
  | nil => simpa [Memory.write] using h
  | cons y m ih =>
    obtain ⟨k, w⟩ := y
    unfold Memory.write at h
    split at h
    · simpa using h
    · split at h
      · simp only [List.mem_cons] at h ⊢
        tauto
      · simp only [List.mem_cons] at h ⊢
        rcases h with h | h
        · tauto
        · have := ih h
          tauto

/-- A write keeps the canonical form. -/
theorem Memory.wf_write {m : Memory} (a : Nat) (v : Byte) (h : m.wf) : (m.write a v).wf := by
  induction m with
  | nil => simp [Memory.write, Memory.wf]
  | cons y m ih =>
    obtain ⟨k, w⟩ := y
    obtain ⟨hk, hm⟩ := List.pairwise_cons.mp h
    unfold Memory.write
    split
    · rename_i ha
      refine List.pairwise_cons.mpr ⟨fun x hx => ?_, h⟩
      rcases List.mem_cons.mp hx with rfl | hx
      · exact ha
      · exact Nat.lt_trans ha (hk x hx)
    · split
      · rename_i ha
        subst ha
        exact List.pairwise_cons.mpr ⟨hk, hm⟩
      · rename_i h1 h2
        refine List.pairwise_cons.mpr ⟨fun x hx => ?_, ih hm⟩
        rcases Memory.mem_write hx with rfl | hx
        · show k < a
          omega
        · exact hk x hx

/-- A write inside a range of addresses keeps every listed address inside it. -/
theorem Memory.range_write {m : Memory} {n a : Nat} {v : Byte} (h : ∀ x ∈ m, x.1 < n) (ha : a < n) :
    ∀ x ∈ m.write a v, x.1 < n := by
  intro x hx
  rcases Memory.mem_write hx with rfl | hx
  · exact ha
  · exact h x hx

/-- What a run of bytes written at `a` leaves at each address. -/
theorem Memory.read_writeBytes (m : Memory) (a b : Nat) (bs : List Byte) :
    (m.writeBytes a bs).read b =
      if a ≤ b ∧ b < a + bs.length then bs[b - a]? else m.read b := by
  induction bs generalizing m a with
  | nil => simp only [Memory.writeBytes, List.length_nil]; rw [if_neg (by omega)]
  | cons v bs ih =>
    simp only [Memory.writeBytes, ih, Memory.read_write, List.length_cons]
    rcases Nat.lt_trichotomy b a with h | h | h
    · rw [if_neg (by omega), if_neg (by omega), if_neg (by omega)]
    · subst h
      rw [if_neg (by omega), if_pos rfl, if_pos (by omega)]
      simp
    · by_cases h2 : b < a + 1 + bs.length
      · rw [if_pos (by omega), if_pos (by omega)]
        rw [show b - a = (b - (a + 1)) + 1 by omega]
        simp
      · rw [if_neg (by omega), if_neg (by omega), if_neg (by omega)]

theorem Memory.wf_writeBytes {m : Memory} (a : Nat) (bs : List Byte) (h : m.wf) :
    (m.writeBytes a bs).wf := by
  induction bs generalizing m a with
  | nil => exact h
  | cons v bs ih => exact ih (a + 1) (Memory.wf_write a v h)

theorem Memory.range_writeBytes {m : Memory} {n a : Nat} {bs : List Byte} (h : ∀ x ∈ m, x.1 < n)
    (ha : a + bs.length ≤ n) : ∀ x ∈ m.writeBytes a bs, x.1 < n := by
  induction bs generalizing m a with
  | nil => exact h
  | cons v bs ih =>
    simp only [List.length_cons] at ha
    exact ih (Memory.range_write h (by omega)) (by omega)

/-- What a successful read of a run of bytes says of each byte. -/
theorem Memory.readBytes_eq_some {m : Memory} {a n : Nat} {bs : List Byte} :
    m.readBytes a n = some bs ↔ bs.length = n ∧ ∀ i < n, m.read (a + i) = bs[i]? := by
  induction n generalizing a bs with
  | zero => cases bs <;> simp [Memory.readBytes]
  | succ n ih =>
    cases bs with
    | nil =>
      simp only [List.length_nil, Memory.readBytes]
      constructor
      · intro h
        split at h <;> simp at h
      · intro h
        omega
    | cons b bs =>
      have key : m.readBytes a (n + 1) = some (b :: bs) ↔
          m.read a = some b ∧ m.readBytes (a + 1) n = some bs := by
        simp only [Memory.readBytes]
        constructor
        · intro h
          split at h
          · rename_i h1 h2
            simp only [Option.some.injEq, List.cons.injEq] at h
            obtain ⟨rfl, rfl⟩ := h
            exact ⟨h1, h2⟩
          · simp at h
        · rintro ⟨h1, h2⟩
          simp [h1, h2]
      rw [key, ih]
      constructor
      · rintro ⟨h1, h2, h3⟩
        refine ⟨by simp [h2], fun i hi => ?_⟩
        cases i with
        | zero => simpa using h1
        | succ i =>
          have := h3 i (by omega)
          simpa [Nat.add_assoc, Nat.add_comm 1 i] using this
      · rintro ⟨h1, h2⟩
        refine ⟨by simpa using h2 0 (by omega), by simpa using h1, fun i hi => ?_⟩
        have := h2 (i + 1) (by omega)
        simpa [Nat.add_assoc, Nat.add_comm 1 i] using this

/-- A run of bytes can be read when every cell of it was written. -/
theorem Memory.readBytes_isSome {m : Memory} {a n : Nat} (h : ∀ i < n, (m.read (a + i)).isSome) :
    ∃ bs, m.readBytes a n = some bs ∧ bs.length = n := by
  induction n generalizing a with
  | zero => exact ⟨[], rfl, rfl⟩
  | succ n ih =>
    obtain ⟨b, hb⟩ := Option.isSome_iff_exists.mp (h 0 (by omega))
    obtain ⟨bs, hbs, hl⟩ := ih (a := a + 1) fun i hi => by
      have := h (i + 1) (by omega)
      simpa [Nat.add_assoc, Nat.add_comm 1 i] using this
    refine ⟨b :: bs, ?_, by simp [hl]⟩
    simp only [Nat.add_zero] at hb
    simp [Memory.readBytes, hb, hbs]

/-- A run of bytes reads the same in two stores that agree on its cells. -/
theorem Memory.readBytes_congr {m m' : Memory} {a n : Nat}
    (h : ∀ i < n, m.read (a + i) = m'.read (a + i)) : m.readBytes a n = m'.readBytes a n := by
  induction n generalizing a with
  | zero => rfl
  | succ n ih =>
    have h0 := h 0 (by omega)
    simp only [Nat.add_zero] at h0
    have h1 := ih (a := a + 1) fun i hi => by
      have := h (i + 1) (by omega)
      simpa [Nat.add_assoc, Nat.add_comm 1 i] using this
    simp [Memory.readBytes, h0, h1]

/-- What was written is read back. -/
theorem Memory.readBytes_writeBytes (m : Memory) (a : Nat) (bs : List Byte) :
    (m.writeBytes a bs).readBytes a bs.length = some bs := by
  rw [Memory.readBytes_eq_some]
  refine ⟨rfl, fun i hi => ?_⟩
  rw [Memory.read_writeBytes, if_pos (by omega)]
  simp

/-- The bytes below the written cell, then the written byte. -/
theorem Memory.readBytes_write_end (m : Memory) (n : Nat) (v : Byte) :
    (m.write n v).readBytes 0 (n + 1) = (m.readBytes 0 n).map (· ++ [v]) := by
  cases h : m.readBytes 0 n with
  | some bs =>
    rw [Memory.readBytes_eq_some] at h
    simp only [Option.map_some]
    rw [Memory.readBytes_eq_some]
    refine ⟨by simp [h.1], fun i hi => ?_⟩
    rw [Memory.read_write]
    rcases Nat.lt_or_ge i n with hin | hin
    · have := h.2 i hin
      rw [if_neg (by omega), this, List.getElem?_append_left (by omega)]
    · have : i = n := by omega
      subst this
      simp [← h.1]
  | none =>
    simp only [Option.map_none]
    by_contra hc
    obtain ⟨bs, hbs⟩ := Option.ne_none_iff_exists'.mp hc
    rw [Memory.readBytes_eq_some] at hbs
    obtain ⟨ys, hys, _⟩ := Memory.readBytes_isSome (m := m) (a := 0) (n := n) fun i hi => by
      have := hbs.2 i (by omega)
      rw [Nat.zero_add] at this ⊢
      rw [Memory.read_write, if_neg (by omega)] at this
      rw [this, List.getElem?_eq_getElem (by omega)]
      rfl
    simp [hys] at h

end Sys2Proof.Machine
end

