-- ==== Sys2Proof/Laws/State.lean ====
section
/-! SUPPORT. What each register update of Machine/Ops.lean does to each field of State: one lemma per
field per update, true by definition. -/

namespace Sys2Proof.Machine

/-! ### emit -/

@[simp] theorem emit_cfg (s : State) (es : List OutEvent) :
    (s.emit es).cfg = s.cfg := rfl
@[simp] theorem emit_buf (s : State) (es : List OutEvent) :
    (s.emit es).buf = s.buf := rfl
@[simp] theorem emit_len (s : State) (es : List OutEvent) :
    (s.emit es).len = s.len := rfl
@[simp] theorem emit_headerValidated (s : State) (es : List OutEvent) :
    (s.emit es).headerValidated = s.headerValidated := rfl
@[simp] theorem emit_lastActivity (s : State) (es : List OutEvent) :
    (s.emit es).lastActivity = s.lastActivity := rfl
@[simp] theorem emit_mboxFull (s : State) (es : List OutEvent) :
    (s.emit es).mboxFull = s.mboxFull := rfl
@[simp] theorem emit_mboxCmd (s : State) (es : List OutEvent) :
    (s.emit es).mboxCmd = s.mboxCmd := rfl
@[simp] theorem emit_mboxLen (s : State) (es : List OutEvent) :
    (s.emit es).mboxLen = s.mboxLen := rfl
@[simp] theorem emit_mboxData (s : State) (es : List OutEvent) :
    (s.emit es).mboxData = s.mboxData := rfl
@[simp] theorem emit_handlerValid (s : State) (es : List OutEvent) :
    (s.emit es).handlerValid = s.handlerValid := rfl
@[simp] theorem emit_handlerId (s : State) (es : List OutEvent) :
    (s.emit es).handlerId = s.handlerId := rfl
@[simp] theorem emit_fwdValid (s : State) (es : List OutEvent) :
    (s.emit es).fwdValid = s.fwdValid := rfl
@[simp] theorem emit_fwdTarget (s : State) (es : List OutEvent) :
    (s.emit es).fwdTarget = s.fwdTarget := rfl
@[simp] theorem emit_out (s : State) (es : List OutEvent) :
    (s.emit es).out = s.out ++ es := rfl
@[simp] theorem emit_rxFifo (s : State) (es : List OutEvent) :
    (s.emit es).rxFifo = s.rxFifo := rfl
@[simp] theorem emit_inputs (s : State) (es : List OutEvent) :
    (s.emit es).inputs = s.inputs := rfl
@[simp] theorem emit_txAnswers (s : State) (es : List OutEvent) :
    (s.emit es).txAnswers = s.txAnswers := rfl

/-! ### clearBuffer -/

@[simp] theorem clearBuffer_cfg (s : State) :
    (s.clearBuffer).cfg = s.cfg := rfl
@[simp] theorem clearBuffer_buf (s : State) :
    (s.clearBuffer).buf = s.buf := rfl
@[simp] theorem clearBuffer_len (s : State) :
    (s.clearBuffer).len = 0 := rfl
@[simp] theorem clearBuffer_headerValidated (s : State) :
    (s.clearBuffer).headerValidated = false := rfl
@[simp] theorem clearBuffer_lastActivity (s : State) :
    (s.clearBuffer).lastActivity = s.lastActivity := rfl
@[simp] theorem clearBuffer_mboxFull (s : State) :
    (s.clearBuffer).mboxFull = s.mboxFull := rfl
@[simp] theorem clearBuffer_mboxCmd (s : State) :
    (s.clearBuffer).mboxCmd = s.mboxCmd := rfl
@[simp] theorem clearBuffer_mboxLen (s : State) :
    (s.clearBuffer).mboxLen = s.mboxLen := rfl
@[simp] theorem clearBuffer_mboxData (s : State) :
    (s.clearBuffer).mboxData = s.mboxData := rfl
@[simp] theorem clearBuffer_handlerValid (s : State) :
    (s.clearBuffer).handlerValid = s.handlerValid := rfl
@[simp] theorem clearBuffer_handlerId (s : State) :
    (s.clearBuffer).handlerId = s.handlerId := rfl
@[simp] theorem clearBuffer_fwdValid (s : State) :
    (s.clearBuffer).fwdValid = s.fwdValid := rfl
@[simp] theorem clearBuffer_fwdTarget (s : State) :
    (s.clearBuffer).fwdTarget = s.fwdTarget := rfl
@[simp] theorem clearBuffer_out (s : State) :
    (s.clearBuffer).out = s.out := rfl
@[simp] theorem clearBuffer_rxFifo (s : State) :
    (s.clearBuffer).rxFifo = s.rxFifo := rfl
@[simp] theorem clearBuffer_inputs (s : State) :
    (s.clearBuffer).inputs = s.inputs := rfl
@[simp] theorem clearBuffer_txAnswers (s : State) :
    (s.clearBuffer).txAnswers = s.txAnswers := rfl

/-! ### storeByte -/

@[simp] theorem storeByte_cfg (s : State) (b : Byte) :
    (s.storeByte b).cfg = s.cfg := rfl
@[simp] theorem storeByte_buf (s : State) (b : Byte) :
    (s.storeByte b).buf = s.buf.write s.len.toNat b := rfl
@[simp] theorem storeByte_len (s : State) (b : Byte) :
    (s.storeByte b).len = s.len + 1 := rfl
@[simp] theorem storeByte_headerValidated (s : State) (b : Byte) :
    (s.storeByte b).headerValidated = s.headerValidated := rfl
@[simp] theorem storeByte_lastActivity (s : State) (b : Byte) :
    (s.storeByte b).lastActivity = s.lastActivity := rfl
@[simp] theorem storeByte_mboxFull (s : State) (b : Byte) :
    (s.storeByte b).mboxFull = s.mboxFull := rfl
@[simp] theorem storeByte_mboxCmd (s : State) (b : Byte) :
    (s.storeByte b).mboxCmd = s.mboxCmd := rfl
@[simp] theorem storeByte_mboxLen (s : State) (b : Byte) :
    (s.storeByte b).mboxLen = s.mboxLen := rfl
@[simp] theorem storeByte_mboxData (s : State) (b : Byte) :
    (s.storeByte b).mboxData = s.mboxData := rfl
@[simp] theorem storeByte_handlerValid (s : State) (b : Byte) :
    (s.storeByte b).handlerValid = s.handlerValid := rfl
@[simp] theorem storeByte_handlerId (s : State) (b : Byte) :
    (s.storeByte b).handlerId = s.handlerId := rfl
@[simp] theorem storeByte_fwdValid (s : State) (b : Byte) :
    (s.storeByte b).fwdValid = s.fwdValid := rfl
@[simp] theorem storeByte_fwdTarget (s : State) (b : Byte) :
    (s.storeByte b).fwdTarget = s.fwdTarget := rfl
@[simp] theorem storeByte_out (s : State) (b : Byte) :
    (s.storeByte b).out = s.out := rfl
@[simp] theorem storeByte_rxFifo (s : State) (b : Byte) :
    (s.storeByte b).rxFifo = s.rxFifo := rfl
@[simp] theorem storeByte_inputs (s : State) (b : Byte) :
    (s.storeByte b).inputs = s.inputs := rfl
@[simp] theorem storeByte_txAnswers (s : State) (b : Byte) :
    (s.storeByte b).txAnswers = s.txAnswers := rfl

/-! ### validateHeader -/

@[simp] theorem validateHeader_cfg (s : State) :
    (s.validateHeader).cfg = s.cfg := rfl
@[simp] theorem validateHeader_buf (s : State) :
    (s.validateHeader).buf = s.buf := rfl
@[simp] theorem validateHeader_len (s : State) :
    (s.validateHeader).len = s.len := rfl
@[simp] theorem validateHeader_headerValidated (s : State) :
    (s.validateHeader).headerValidated = true := rfl
@[simp] theorem validateHeader_lastActivity (s : State) :
    (s.validateHeader).lastActivity = s.lastActivity := rfl
@[simp] theorem validateHeader_mboxFull (s : State) :
    (s.validateHeader).mboxFull = s.mboxFull := rfl
@[simp] theorem validateHeader_mboxCmd (s : State) :
    (s.validateHeader).mboxCmd = s.mboxCmd := rfl
@[simp] theorem validateHeader_mboxLen (s : State) :
    (s.validateHeader).mboxLen = s.mboxLen := rfl
@[simp] theorem validateHeader_mboxData (s : State) :
    (s.validateHeader).mboxData = s.mboxData := rfl
@[simp] theorem validateHeader_handlerValid (s : State) :
    (s.validateHeader).handlerValid = s.handlerValid := rfl
@[simp] theorem validateHeader_handlerId (s : State) :
    (s.validateHeader).handlerId = s.handlerId := rfl
@[simp] theorem validateHeader_fwdValid (s : State) :
    (s.validateHeader).fwdValid = s.fwdValid := rfl
@[simp] theorem validateHeader_fwdTarget (s : State) :
    (s.validateHeader).fwdTarget = s.fwdTarget := rfl
@[simp] theorem validateHeader_out (s : State) :
    (s.validateHeader).out = s.out := rfl
@[simp] theorem validateHeader_rxFifo (s : State) :
    (s.validateHeader).rxFifo = s.rxFifo := rfl
@[simp] theorem validateHeader_inputs (s : State) :
    (s.validateHeader).inputs = s.inputs := rfl
@[simp] theorem validateHeader_txAnswers (s : State) :
    (s.validateHeader).txAnswers = s.txAnswers := rfl

/-! ### touch -/

@[simp] theorem touch_cfg (s : State) (t : Nat) :
    (s.touch t).cfg = s.cfg := rfl
@[simp] theorem touch_buf (s : State) (t : Nat) :
    (s.touch t).buf = s.buf := rfl
@[simp] theorem touch_len (s : State) (t : Nat) :
    (s.touch t).len = s.len := rfl
@[simp] theorem touch_headerValidated (s : State) (t : Nat) :
    (s.touch t).headerValidated = s.headerValidated := rfl
@[simp] theorem touch_lastActivity (s : State) (t : Nat) :
    (s.touch t).lastActivity = t % 2 ^ s.cfg.tickW := rfl
@[simp] theorem touch_mboxFull (s : State) (t : Nat) :
    (s.touch t).mboxFull = s.mboxFull := rfl
@[simp] theorem touch_mboxCmd (s : State) (t : Nat) :
    (s.touch t).mboxCmd = s.mboxCmd := rfl
@[simp] theorem touch_mboxLen (s : State) (t : Nat) :
    (s.touch t).mboxLen = s.mboxLen := rfl
@[simp] theorem touch_mboxData (s : State) (t : Nat) :
    (s.touch t).mboxData = s.mboxData := rfl
@[simp] theorem touch_handlerValid (s : State) (t : Nat) :
    (s.touch t).handlerValid = s.handlerValid := rfl
@[simp] theorem touch_handlerId (s : State) (t : Nat) :
    (s.touch t).handlerId = s.handlerId := rfl
@[simp] theorem touch_fwdValid (s : State) (t : Nat) :
    (s.touch t).fwdValid = s.fwdValid := rfl
@[simp] theorem touch_fwdTarget (s : State) (t : Nat) :
    (s.touch t).fwdTarget = s.fwdTarget := rfl
@[simp] theorem touch_out (s : State) (t : Nat) :
    (s.touch t).out = s.out := rfl
@[simp] theorem touch_rxFifo (s : State) (t : Nat) :
    (s.touch t).rxFifo = s.rxFifo := rfl
@[simp] theorem touch_inputs (s : State) (t : Nat) :
    (s.touch t).inputs = s.inputs := rfl
@[simp] theorem touch_txAnswers (s : State) (t : Nat) :
    (s.touch t).txAnswers = s.txAnswers := rfl

/-! ### fillMailbox -/

@[simp] theorem fillMailbox_cfg (s : State) (cmd : Byte) (p : List Byte) :
    (s.fillMailbox cmd p).cfg = s.cfg := rfl
@[simp] theorem fillMailbox_buf (s : State) (cmd : Byte) (p : List Byte) :
    (s.fillMailbox cmd p).buf = s.buf := rfl
@[simp] theorem fillMailbox_len (s : State) (cmd : Byte) (p : List Byte) :
    (s.fillMailbox cmd p).len = s.len := rfl
@[simp] theorem fillMailbox_headerValidated (s : State) (cmd : Byte) (p : List Byte) :
    (s.fillMailbox cmd p).headerValidated = s.headerValidated := rfl
@[simp] theorem fillMailbox_lastActivity (s : State) (cmd : Byte) (p : List Byte) :
    (s.fillMailbox cmd p).lastActivity = s.lastActivity := rfl
@[simp] theorem fillMailbox_mboxFull (s : State) (cmd : Byte) (p : List Byte) :
    (s.fillMailbox cmd p).mboxFull = true := rfl
@[simp] theorem fillMailbox_mboxCmd (s : State) (cmd : Byte) (p : List Byte) :
    (s.fillMailbox cmd p).mboxCmd = cmd := rfl
@[simp] theorem fillMailbox_mboxLen (s : State) (cmd : Byte) (p : List Byte) :
    (s.fillMailbox cmd p).mboxLen = BitVec.ofNat lenW p.length := rfl
@[simp] theorem fillMailbox_mboxData (s : State) (cmd : Byte) (p : List Byte) :
    (s.fillMailbox cmd p).mboxData = s.mboxData.writeBytes 0 p := rfl
@[simp] theorem fillMailbox_handlerValid (s : State) (cmd : Byte) (p : List Byte) :
    (s.fillMailbox cmd p).handlerValid = s.handlerValid := rfl
@[simp] theorem fillMailbox_handlerId (s : State) (cmd : Byte) (p : List Byte) :
    (s.fillMailbox cmd p).handlerId = s.handlerId := rfl
@[simp] theorem fillMailbox_fwdValid (s : State) (cmd : Byte) (p : List Byte) :
    (s.fillMailbox cmd p).fwdValid = s.fwdValid := rfl
@[simp] theorem fillMailbox_fwdTarget (s : State) (cmd : Byte) (p : List Byte) :
    (s.fillMailbox cmd p).fwdTarget = s.fwdTarget := rfl
@[simp] theorem fillMailbox_out (s : State) (cmd : Byte) (p : List Byte) :
    (s.fillMailbox cmd p).out = s.out := rfl
@[simp] theorem fillMailbox_rxFifo (s : State) (cmd : Byte) (p : List Byte) :
    (s.fillMailbox cmd p).rxFifo = s.rxFifo := rfl
@[simp] theorem fillMailbox_inputs (s : State) (cmd : Byte) (p : List Byte) :
    (s.fillMailbox cmd p).inputs = s.inputs := rfl
@[simp] theorem fillMailbox_txAnswers (s : State) (cmd : Byte) (p : List Byte) :
    (s.fillMailbox cmd p).txAnswers = s.txAnswers := rfl

/-! ### emptyMailbox -/

@[simp] theorem emptyMailbox_cfg (s : State) :
    (s.emptyMailbox).cfg = s.cfg := rfl
@[simp] theorem emptyMailbox_buf (s : State) :
    (s.emptyMailbox).buf = s.buf := rfl
@[simp] theorem emptyMailbox_len (s : State) :
    (s.emptyMailbox).len = s.len := rfl
@[simp] theorem emptyMailbox_headerValidated (s : State) :
    (s.emptyMailbox).headerValidated = s.headerValidated := rfl
@[simp] theorem emptyMailbox_lastActivity (s : State) :
    (s.emptyMailbox).lastActivity = s.lastActivity := rfl
@[simp] theorem emptyMailbox_mboxFull (s : State) :
    (s.emptyMailbox).mboxFull = false := rfl
@[simp] theorem emptyMailbox_mboxCmd (s : State) :
    (s.emptyMailbox).mboxCmd = s.mboxCmd := rfl
@[simp] theorem emptyMailbox_mboxLen (s : State) :
    (s.emptyMailbox).mboxLen = s.mboxLen := rfl
@[simp] theorem emptyMailbox_mboxData (s : State) :
    (s.emptyMailbox).mboxData = s.mboxData := rfl
@[simp] theorem emptyMailbox_handlerValid (s : State) :
    (s.emptyMailbox).handlerValid = s.handlerValid := rfl
@[simp] theorem emptyMailbox_handlerId (s : State) :
    (s.emptyMailbox).handlerId = s.handlerId := rfl
@[simp] theorem emptyMailbox_fwdValid (s : State) :
    (s.emptyMailbox).fwdValid = s.fwdValid := rfl
@[simp] theorem emptyMailbox_fwdTarget (s : State) :
    (s.emptyMailbox).fwdTarget = s.fwdTarget := rfl
@[simp] theorem emptyMailbox_out (s : State) :
    (s.emptyMailbox).out = s.out := rfl
@[simp] theorem emptyMailbox_rxFifo (s : State) :
    (s.emptyMailbox).rxFifo = s.rxFifo := rfl
@[simp] theorem emptyMailbox_inputs (s : State) :
    (s.emptyMailbox).inputs = s.inputs := rfl
@[simp] theorem emptyMailbox_txAnswers (s : State) :
    (s.emptyMailbox).txAnswers = s.txAnswers := rfl

/-! ### setHandler -/

@[simp] theorem setHandler_cfg (s : State) (c : Nat) (h : c < cmdMax) (hid : HandlerId) :
    (s.setHandler c h hid).cfg = s.cfg := rfl
@[simp] theorem setHandler_buf (s : State) (c : Nat) (h : c < cmdMax) (hid : HandlerId) :
    (s.setHandler c h hid).buf = s.buf := rfl
@[simp] theorem setHandler_len (s : State) (c : Nat) (h : c < cmdMax) (hid : HandlerId) :
    (s.setHandler c h hid).len = s.len := rfl
@[simp] theorem setHandler_headerValidated (s : State) (c : Nat) (h : c < cmdMax) (hid : HandlerId) :
    (s.setHandler c h hid).headerValidated = s.headerValidated := rfl
@[simp] theorem setHandler_lastActivity (s : State) (c : Nat) (h : c < cmdMax) (hid : HandlerId) :
    (s.setHandler c h hid).lastActivity = s.lastActivity := rfl
@[simp] theorem setHandler_mboxFull (s : State) (c : Nat) (h : c < cmdMax) (hid : HandlerId) :
    (s.setHandler c h hid).mboxFull = s.mboxFull := rfl
@[simp] theorem setHandler_mboxCmd (s : State) (c : Nat) (h : c < cmdMax) (hid : HandlerId) :
    (s.setHandler c h hid).mboxCmd = s.mboxCmd := rfl
@[simp] theorem setHandler_mboxLen (s : State) (c : Nat) (h : c < cmdMax) (hid : HandlerId) :
    (s.setHandler c h hid).mboxLen = s.mboxLen := rfl
@[simp] theorem setHandler_mboxData (s : State) (c : Nat) (h : c < cmdMax) (hid : HandlerId) :
    (s.setHandler c h hid).mboxData = s.mboxData := rfl
@[simp] theorem setHandler_handlerValid (s : State) (c : Nat) (h : c < cmdMax) (hid : HandlerId) :
    (s.setHandler c h hid).handlerValid = s.handlerValid.set c true h := rfl
@[simp] theorem setHandler_handlerId (s : State) (c : Nat) (h : c < cmdMax) (hid : HandlerId) :
    (s.setHandler c h hid).handlerId = s.handlerId.set c hid h := rfl
@[simp] theorem setHandler_fwdValid (s : State) (c : Nat) (h : c < cmdMax) (hid : HandlerId) :
    (s.setHandler c h hid).fwdValid = s.fwdValid := rfl
@[simp] theorem setHandler_fwdTarget (s : State) (c : Nat) (h : c < cmdMax) (hid : HandlerId) :
    (s.setHandler c h hid).fwdTarget = s.fwdTarget := rfl
@[simp] theorem setHandler_out (s : State) (c : Nat) (h : c < cmdMax) (hid : HandlerId) :
    (s.setHandler c h hid).out = s.out := rfl
@[simp] theorem setHandler_rxFifo (s : State) (c : Nat) (h : c < cmdMax) (hid : HandlerId) :
    (s.setHandler c h hid).rxFifo = s.rxFifo := rfl
@[simp] theorem setHandler_inputs (s : State) (c : Nat) (h : c < cmdMax) (hid : HandlerId) :
    (s.setHandler c h hid).inputs = s.inputs := rfl
@[simp] theorem setHandler_txAnswers (s : State) (c : Nat) (h : c < cmdMax) (hid : HandlerId) :
    (s.setHandler c h hid).txAnswers = s.txAnswers := rfl

/-! ### setForward -/

@[simp] theorem setForward_cfg (s : State) (c : Nat) (h : c < cmdMax) (x : CtxId) :
    (s.setForward c h x).cfg = s.cfg := rfl
@[simp] theorem setForward_buf (s : State) (c : Nat) (h : c < cmdMax) (x : CtxId) :
    (s.setForward c h x).buf = s.buf := rfl
@[simp] theorem setForward_len (s : State) (c : Nat) (h : c < cmdMax) (x : CtxId) :
    (s.setForward c h x).len = s.len := rfl
@[simp] theorem setForward_headerValidated (s : State) (c : Nat) (h : c < cmdMax) (x : CtxId) :
    (s.setForward c h x).headerValidated = s.headerValidated := rfl
@[simp] theorem setForward_lastActivity (s : State) (c : Nat) (h : c < cmdMax) (x : CtxId) :
    (s.setForward c h x).lastActivity = s.lastActivity := rfl
@[simp] theorem setForward_mboxFull (s : State) (c : Nat) (h : c < cmdMax) (x : CtxId) :
    (s.setForward c h x).mboxFull = s.mboxFull := rfl
@[simp] theorem setForward_mboxCmd (s : State) (c : Nat) (h : c < cmdMax) (x : CtxId) :
    (s.setForward c h x).mboxCmd = s.mboxCmd := rfl
@[simp] theorem setForward_mboxLen (s : State) (c : Nat) (h : c < cmdMax) (x : CtxId) :
    (s.setForward c h x).mboxLen = s.mboxLen := rfl
@[simp] theorem setForward_mboxData (s : State) (c : Nat) (h : c < cmdMax) (x : CtxId) :
    (s.setForward c h x).mboxData = s.mboxData := rfl
@[simp] theorem setForward_handlerValid (s : State) (c : Nat) (h : c < cmdMax) (x : CtxId) :
    (s.setForward c h x).handlerValid = s.handlerValid := rfl
@[simp] theorem setForward_handlerId (s : State) (c : Nat) (h : c < cmdMax) (x : CtxId) :
    (s.setForward c h x).handlerId = s.handlerId := rfl
@[simp] theorem setForward_fwdValid (s : State) (c : Nat) (h : c < cmdMax) (x : CtxId) :
    (s.setForward c h x).fwdValid = s.fwdValid.set c true h := rfl
@[simp] theorem setForward_fwdTarget (s : State) (c : Nat) (h : c < cmdMax) (x : CtxId) :
    (s.setForward c h x).fwdTarget = s.fwdTarget.set c x h := rfl
@[simp] theorem setForward_out (s : State) (c : Nat) (h : c < cmdMax) (x : CtxId) :
    (s.setForward c h x).out = s.out := rfl
@[simp] theorem setForward_rxFifo (s : State) (c : Nat) (h : c < cmdMax) (x : CtxId) :
    (s.setForward c h x).rxFifo = s.rxFifo := rfl
@[simp] theorem setForward_inputs (s : State) (c : Nat) (h : c < cmdMax) (x : CtxId) :
    (s.setForward c h x).inputs = s.inputs := rfl
@[simp] theorem setForward_txAnswers (s : State) (c : Nat) (h : c < cmdMax) (x : CtxId) :
    (s.setForward c h x).txAnswers = s.txAnswers := rfl

/-! ### withFifo -/

@[simp] theorem withFifo_cfg (s : State) (q : List Byte) :
    (s.withFifo q).cfg = s.cfg := rfl
@[simp] theorem withFifo_buf (s : State) (q : List Byte) :
    (s.withFifo q).buf = s.buf := rfl
@[simp] theorem withFifo_len (s : State) (q : List Byte) :
    (s.withFifo q).len = s.len := rfl
@[simp] theorem withFifo_headerValidated (s : State) (q : List Byte) :
    (s.withFifo q).headerValidated = s.headerValidated := rfl
@[simp] theorem withFifo_lastActivity (s : State) (q : List Byte) :
    (s.withFifo q).lastActivity = s.lastActivity := rfl
@[simp] theorem withFifo_mboxFull (s : State) (q : List Byte) :
    (s.withFifo q).mboxFull = s.mboxFull := rfl
@[simp] theorem withFifo_mboxCmd (s : State) (q : List Byte) :
    (s.withFifo q).mboxCmd = s.mboxCmd := rfl
@[simp] theorem withFifo_mboxLen (s : State) (q : List Byte) :
    (s.withFifo q).mboxLen = s.mboxLen := rfl
@[simp] theorem withFifo_mboxData (s : State) (q : List Byte) :
    (s.withFifo q).mboxData = s.mboxData := rfl
@[simp] theorem withFifo_handlerValid (s : State) (q : List Byte) :
    (s.withFifo q).handlerValid = s.handlerValid := rfl
@[simp] theorem withFifo_handlerId (s : State) (q : List Byte) :
    (s.withFifo q).handlerId = s.handlerId := rfl
@[simp] theorem withFifo_fwdValid (s : State) (q : List Byte) :
    (s.withFifo q).fwdValid = s.fwdValid := rfl
@[simp] theorem withFifo_fwdTarget (s : State) (q : List Byte) :
    (s.withFifo q).fwdTarget = s.fwdTarget := rfl
@[simp] theorem withFifo_out (s : State) (q : List Byte) :
    (s.withFifo q).out = s.out := rfl
@[simp] theorem withFifo_rxFifo (s : State) (q : List Byte) :
    (s.withFifo q).rxFifo = q := rfl
@[simp] theorem withFifo_inputs (s : State) (q : List Byte) :
    (s.withFifo q).inputs = s.inputs := rfl
@[simp] theorem withFifo_txAnswers (s : State) (q : List Byte) :
    (s.withFifo q).txAnswers = s.txAnswers := rfl

/-! ### withInputs -/

@[simp] theorem withInputs_cfg (s : State) (es : List Event) :
    (s.withInputs es).cfg = s.cfg := rfl
@[simp] theorem withInputs_buf (s : State) (es : List Event) :
    (s.withInputs es).buf = s.buf := rfl
@[simp] theorem withInputs_len (s : State) (es : List Event) :
    (s.withInputs es).len = s.len := rfl
@[simp] theorem withInputs_headerValidated (s : State) (es : List Event) :
    (s.withInputs es).headerValidated = s.headerValidated := rfl
@[simp] theorem withInputs_lastActivity (s : State) (es : List Event) :
    (s.withInputs es).lastActivity = s.lastActivity := rfl
@[simp] theorem withInputs_mboxFull (s : State) (es : List Event) :
    (s.withInputs es).mboxFull = s.mboxFull := rfl
@[simp] theorem withInputs_mboxCmd (s : State) (es : List Event) :
    (s.withInputs es).mboxCmd = s.mboxCmd := rfl
@[simp] theorem withInputs_mboxLen (s : State) (es : List Event) :
    (s.withInputs es).mboxLen = s.mboxLen := rfl
@[simp] theorem withInputs_mboxData (s : State) (es : List Event) :
    (s.withInputs es).mboxData = s.mboxData := rfl
@[simp] theorem withInputs_handlerValid (s : State) (es : List Event) :
    (s.withInputs es).handlerValid = s.handlerValid := rfl
@[simp] theorem withInputs_handlerId (s : State) (es : List Event) :
    (s.withInputs es).handlerId = s.handlerId := rfl
@[simp] theorem withInputs_fwdValid (s : State) (es : List Event) :
    (s.withInputs es).fwdValid = s.fwdValid := rfl
@[simp] theorem withInputs_fwdTarget (s : State) (es : List Event) :
    (s.withInputs es).fwdTarget = s.fwdTarget := rfl
@[simp] theorem withInputs_out (s : State) (es : List Event) :
    (s.withInputs es).out = s.out := rfl
@[simp] theorem withInputs_rxFifo (s : State) (es : List Event) :
    (s.withInputs es).rxFifo = s.rxFifo := rfl
@[simp] theorem withInputs_inputs (s : State) (es : List Event) :
    (s.withInputs es).inputs = es := rfl
@[simp] theorem withInputs_txAnswers (s : State) (es : List Event) :
    (s.withInputs es).txAnswers = s.txAnswers := rfl

/-! ### sendResponse -/

@[simp] theorem sendResponse_cfg (s : State) (st : Byte) (p : List Byte) :
    (sendResponse st p s).cfg = s.cfg := rfl
@[simp] theorem sendResponse_buf (s : State) (st : Byte) (p : List Byte) :
    (sendResponse st p s).buf = s.buf := rfl
@[simp] theorem sendResponse_len (s : State) (st : Byte) (p : List Byte) :
    (sendResponse st p s).len = s.len := rfl
@[simp] theorem sendResponse_headerValidated (s : State) (st : Byte) (p : List Byte) :
    (sendResponse st p s).headerValidated = s.headerValidated := rfl
@[simp] theorem sendResponse_lastActivity (s : State) (st : Byte) (p : List Byte) :
    (sendResponse st p s).lastActivity = s.lastActivity := rfl
@[simp] theorem sendResponse_mboxFull (s : State) (st : Byte) (p : List Byte) :
    (sendResponse st p s).mboxFull = s.mboxFull := rfl
@[simp] theorem sendResponse_mboxCmd (s : State) (st : Byte) (p : List Byte) :
    (sendResponse st p s).mboxCmd = s.mboxCmd := rfl
@[simp] theorem sendResponse_mboxLen (s : State) (st : Byte) (p : List Byte) :
    (sendResponse st p s).mboxLen = s.mboxLen := rfl
@[simp] theorem sendResponse_mboxData (s : State) (st : Byte) (p : List Byte) :
    (sendResponse st p s).mboxData = s.mboxData := rfl
@[simp] theorem sendResponse_handlerValid (s : State) (st : Byte) (p : List Byte) :
    (sendResponse st p s).handlerValid = s.handlerValid := rfl
@[simp] theorem sendResponse_handlerId (s : State) (st : Byte) (p : List Byte) :
    (sendResponse st p s).handlerId = s.handlerId := rfl
@[simp] theorem sendResponse_fwdValid (s : State) (st : Byte) (p : List Byte) :
    (sendResponse st p s).fwdValid = s.fwdValid := rfl
@[simp] theorem sendResponse_fwdTarget (s : State) (st : Byte) (p : List Byte) :
    (sendResponse st p s).fwdTarget = s.fwdTarget := rfl
@[simp] theorem sendResponse_rxFifo (s : State) (st : Byte) (p : List Byte) :
    (sendResponse st p s).rxFifo = s.rxFifo := rfl
@[simp] theorem sendResponse_inputs (s : State) (st : Byte) (p : List Byte) :
    (sendResponse st p s).inputs = s.inputs := rfl

/-! ### raiseError -/

@[simp] theorem raiseError_cfg (s : State) (e : FrameError) :
    (raiseError e s).cfg = s.cfg := rfl
@[simp] theorem raiseError_buf (s : State) (e : FrameError) :
    (raiseError e s).buf = s.buf := rfl
@[simp] theorem raiseError_len (s : State) (e : FrameError) :
    (raiseError e s).len = 0 := rfl
@[simp] theorem raiseError_headerValidated (s : State) (e : FrameError) :
    (raiseError e s).headerValidated = false := rfl
@[simp] theorem raiseError_lastActivity (s : State) (e : FrameError) :
    (raiseError e s).lastActivity = s.lastActivity := rfl
@[simp] theorem raiseError_mboxFull (s : State) (e : FrameError) :
    (raiseError e s).mboxFull = s.mboxFull := rfl
@[simp] theorem raiseError_mboxCmd (s : State) (e : FrameError) :
    (raiseError e s).mboxCmd = s.mboxCmd := rfl
@[simp] theorem raiseError_mboxLen (s : State) (e : FrameError) :
    (raiseError e s).mboxLen = s.mboxLen := rfl
@[simp] theorem raiseError_mboxData (s : State) (e : FrameError) :
    (raiseError e s).mboxData = s.mboxData := rfl
@[simp] theorem raiseError_handlerValid (s : State) (e : FrameError) :
    (raiseError e s).handlerValid = s.handlerValid := rfl
@[simp] theorem raiseError_handlerId (s : State) (e : FrameError) :
    (raiseError e s).handlerId = s.handlerId := rfl
@[simp] theorem raiseError_fwdValid (s : State) (e : FrameError) :
    (raiseError e s).fwdValid = s.fwdValid := rfl
@[simp] theorem raiseError_fwdTarget (s : State) (e : FrameError) :
    (raiseError e s).fwdTarget = s.fwdTarget := rfl
@[simp] theorem raiseError_rxFifo (s : State) (e : FrameError) :
    (raiseError e s).rxFifo = s.rxFifo := rfl
@[simp] theorem raiseError_inputs (s : State) (e : FrameError) :
    (raiseError e s).inputs = s.inputs := rfl

end Sys2Proof.Machine
end

