-- ==== Sys2Proof/Laws/Transmit.lean ====
section
/-! SUPPORT. The shared sending operations: what a write loop emits, what a send and a frame-error
sequence leave, and the length of a serialised frame. -/

namespace Sys2Proof.Machine

/-- Every output event of a write loop. -/
theorem mem_writeLoop {delay retries : Nat} {frame : List Byte} {answers : List WriteAnswer}
    {e : OutEvent} (h : e ∈ (writeLoop delay frame retries answers).1) :
    e = .txAttempt frame ∨ e = .txDelay delay ∨ e = .log .txGiveUp ∨ e = .log .txError := by
  fun_induction writeLoop delay frame retries answers with
  | case1 | case2 | case3 | case4 => simp at h; tauto
  | case5 _ _ ih =>
    simp only [List.mem_cons] at h
    rcases h with h | h | h
    · exact .inl h
    · exact .inr (.inl h)
    · exact ih h

/-- A write loop reports no outcome of a received byte. -/
theorem rxOutcome_not_mem_writeLoop (delay retries : Nat) (frame : List Byte)
    (answers : List WriteAnswer) (o : RxOutcome) :
    OutEvent.rxOutcome o ∉ (writeLoop delay frame retries answers).1 := by
  intro h
  have := mem_writeLoop h
  simp at this

/-- What a send does to the trace and to the transport's answers; every other field stays
(`sendResponse_len` and its neighbours). -/
theorem sendResponse_out (s : State) (st : Byte) (p : List Byte) :
    (sendResponse st p s).out = s.out ++
      (writeLoop s.cfg.txRetryDelayMs (serializeResponse s.cfg st p) s.cfg.txRetryMax
        s.txAnswers).1 := rfl

theorem sendResponse_txAnswers (s : State) (st : Byte) (p : List Byte) :
    (sendResponse st p s).txAnswers =
      (writeLoop s.cfg.txRetryDelayMs (serializeResponse s.cfg st p) s.cfg.txRetryMax
        s.txAnswers).2 := rfl

/-- What a frame-error sequence does to the trace. -/
theorem raiseError_out (s : State) (e : FrameError) :
    (raiseError e s).out = s.out ++ [.log (.frameError e.code)] ++
      (writeLoop s.cfg.txRetryDelayMs (serializeResponse s.cfg e.code []) s.cfg.txRetryMax
        s.txAnswers).1 ++ [.rxOutcome (.error e.code)] := rfl

theorem hasChecksum_iff (c : Config) : c.hasChecksum = true ↔ c.checksumMode ≠ .absent := by
  unfold Config.hasChecksum
  cases c.checksumMode <;> simp

theorem generatedChecksum_isSome (c : Config) (covered : List Byte) :
    (generatedChecksum c covered).isSome = c.hasChecksum := by
  unfold generatedChecksum
  cases c.hasChecksum <;> simp

theorem serialize_length (c : Config) (magic : Word) (selector : Byte) (payload : List Byte) :
    (serialize c magic selector payload).length = frameLength c payload.length := by
  simp only [serialize, List.length_append, coveredBytes_length, footerBytes_length,
    generatedChecksum_isSome, frameLength_eq]
  rcases footerSize_cases c with ⟨h, _, h2⟩ | ⟨h, _, h2⟩ <;> simp [h, h2]

end Sys2Proof.Machine
end

