-- ==== Sys2Proof/Laws/Frame.lean ====
section
/-! SUPPORT. What a received frame can do: the inversion lemma of `runFrame`, and exec as one call of it. -/

namespace Sys2Proof.Machine

/-- Everything a received frame can do: raise an error, or be accepted, with or without the log of an
ignored checksum. -/
theorem runFrame_cases (dir : Direction) (selector : Byte) (tail : Tail) (s : State) :
    (∃ e, runFrame dir selector tail s = raiseError e s) ∨
      ∃ payload, payload.length ≤ maxDataSize ∧
        (runFrame dir selector tail s = acceptFrame dir selector payload s ∨
          runFrame dir selector tail s =
            acceptFrame dir selector payload (s.emit [.log .checksumIgnored])) := by
  cases tail with
  | oversize size => exact .inl ⟨_, rfl⟩
  | complete payload checksum footer =>
    simp only [runFrame]
    by_cases hl : maxDataSize < payload.length
    · exact .inl ⟨_, by rw [if_pos hl]⟩
    · rw [if_neg hl]
      by_cases hf : footer ≠ footerMagic
      · exact .inl ⟨_, by rw [if_pos hf]⟩
      · rw [if_neg hf]
        cases checksumCheck s.cfg (coveredBytes s.cfg dir.magic selector payload) checksum with
        | mismatch =>
          by_cases hm : s.cfg.checksumMode = .enforced
          · exact .inl ⟨.invalidData, by simp only [if_pos hm]⟩
          · exact .inr ⟨payload, Nat.not_lt.mp hl, .inr (by simp only [if_neg hm])⟩
        | matched => exact .inr ⟨payload, Nat.not_lt.mp hl, .inl rfl⟩
        | notPresent => exact .inr ⟨payload, Nat.not_lt.mp hl, .inl rfl⟩

/-- A complete frame with a good footer whose checksum is right or absent is accepted. -/
theorem runFrame_good {dir : Direction} {selector : Byte} {payload : List Byte}
    {checksum : Option Word} {s : State} (hl : payload.length ≤ maxDataSize)
    (hc : s.cfg.checksumMode ≠ .absent →
      checksum = some (checksumOf s.cfg (coveredBytes s.cfg dir.magic selector payload))) :
    runFrame dir selector (.complete payload checksum footerMagic) s =
      acceptFrame dir selector payload s := by
  have hk : checksumCheck s.cfg (coveredBytes s.cfg dir.magic selector payload) checksum ≠
      .mismatch := by
    unfold checksumCheck
    cases hm : s.cfg.checksumMode with
    | absent => simp
    | ignored => simp [hc (by simp [hm])]
    | enforced => simp [hc (by simp [hm])]
  unfold runFrame
  simp only [if_neg (Nat.not_lt.mpr hl), ne_eq, not_true_eq_false, if_false]
  split
  · rename_i h
    exact absurd h hk
  · rfl
  · rfl

/-- The same for a Request, in the terms of its own magic. -/
theorem runFrame_good_request {cmd : Byte} {payload : List Byte} {checksum : Option Word} {s : State}
    (hl : payload.length ≤ maxDataSize)
    (hc : s.cfg.checksumMode ≠ .absent →
      checksum = some (checksumOf s.cfg (coveredBytes s.cfg reqMagic cmd payload))) :
    runFrame .request cmd (.complete payload checksum footerMagic) s =
      acceptFrame .request cmd payload s := runFrame_good (dir := .request) hl hc

/-- The same for a Response, in the terms of its own magic. -/
theorem runFrame_good_response {status : Byte} {payload : List Byte} {checksum : Option Word}
    {s : State} (hl : payload.length ≤ maxDataSize)
    (hc : s.cfg.checksumMode ≠ .absent →
      checksum = some (checksumOf s.cfg (coveredBytes s.cfg respMagic status payload))) :
    runFrame .response status (.complete payload checksum footerMagic) s =
      acceptFrame .response status payload s := runFrame_good (dir := .response) hl hc

/-- Acceptance of a Request. -/
theorem acceptFrame_request (cmd : Byte) (payload : List Byte) (s : State) :
    acceptFrame .request cmd payload s =
      if s.mboxFull then
        { s with
          len := 0
          headerValidated := false
          out := s.out ++ [.log .mailboxDrop, .rxOutcome (.frame .request cmd payload)] }
      else
        { s with
          len := 0
          headerValidated := false
          mboxFull := true
          mboxCmd := cmd
          mboxLen := BitVec.ofNat lenW payload.length
          mboxData := s.mboxData.writeBytes 0 payload
          out := s.out ++ [.rxOutcome (.frame .request cmd payload)] } := by
  unfold acceptFrame submit
  cases h : s.mboxFull <;> simp [h, State.emit, State.clearBuffer, State.fillMailbox]

/-- Acceptance of a Response. -/
theorem acceptFrame_response (status : Byte) (payload : List Byte) (s : State) :
    acceptFrame .response status payload s =
      { s with
        len := 0
        headerValidated := false
        out := s.out ++ [.respDeliver status payload,
          .rxOutcome (.frame .response status payload)] } := by
  simp [acceptFrame, deliverResponse, State.emit, State.clearBuffer]

/-- exec of every instruction but `REQ.illegal` is one call of `runFrame`. -/
theorem exec_instrOf {dir : Direction} {selector : Byte} (tail : Tail) (s : State)
    (h : dir = .request → selector.toNat < cmdMax) :
    exec (instrOf dir selector tail) s = .next (runFrame dir selector tail s) := by
  cases dir with
  | request =>
    rcases selector_cases (h rfl) with rfl | rfl | rfl | rfl | rfl | rfl | rfl | rfl | rfl <;> rfl
  | response =>
    simp only [instrOf]
    unfold responseInstr
    repeat' split
    all_goals (subst_vars; rfl)

/-- Everything exec can do. -/
theorem exec_cases (i : Instr) (s : State) :
    exec i s = .next (raiseError .invalidCommand s) ∨
      ∃ dir selector tail, (dir = .request → selector.toNat < cmdMax) ∧
        exec i s = .next (runFrame dir selector tail s) := by
  cases i with
  | reqIllegal selector size => exact .inl rfl
  | turnOff t => exact .inr ⟨.request, 0#8, t, fun _ => by decide, rfl⟩
  | turnOn t => exact .inr ⟨.request, 1#8, t, fun _ => by decide, rfl⟩
  | getInfo t => exact .inr ⟨.request, 2#8, t, fun _ => by decide, rfl⟩
  | setBrightness t => exact .inr ⟨.request, 3#8, t, fun _ => by decide, rfl⟩
  | setColor t => exact .inr ⟨.request, 4#8, t, fun _ => by decide, rfl⟩
  | setEffect t => exact .inr ⟨.request, 5#8, t, fun _ => by decide, rfl⟩
  | getBrightness t => exact .inr ⟨.request, 6#8, t, fun _ => by decide, rfl⟩
  | getEffect t => exact .inr ⟨.request, 7#8, t, fun _ => by decide, rfl⟩
  | getOnState t => exact .inr ⟨.request, 8#8, t, fun _ => by decide, rfl⟩
  | respOk t => exact .inr ⟨.response, _, t, nofun, rfl⟩
  | respPing t => exact .inr ⟨.response, _, t, nofun, rfl⟩
  | respInvalidCommand t => exact .inr ⟨.response, _, t, nofun, rfl⟩
  | respInvalidHeader t => exact .inr ⟨.response, _, t, nofun, rfl⟩
  | respInvalidData t => exact .inr ⟨.response, _, t, nofun, rfl⟩
  | respInvalidFooter t => exact .inr ⟨.response, _, t, nofun, rfl⟩
  | respNotReady t => exact .inr ⟨.response, _, t, nofun, rfl⟩
  | respTimeout t => exact .inr ⟨.response, _, t, nofun, rfl⟩
  | respDataTooLarge t => exact .inr ⟨.response, _, t, nofun, rfl⟩
  | respUnnamed status t => exact .inr ⟨.response, _, t, nofun, rfl⟩

/-- What a frame does to the mailbox: nothing, or it fills an empty one. -/
theorem exec_mailbox {i : Instr} {s t : State} (h : exec i s = .next t) :
    (t.mboxFull = s.mboxFull ∧ t.mboxCmd = s.mboxCmd ∧ t.mboxLen = s.mboxLen ∧
        t.mboxData = s.mboxData) ∨
      (s.mboxFull = false ∧ t.mboxFull = true ∧ ∃ cmd payload, cmd.toNat < cmdMax ∧
        payload.length ≤ maxDataSize ∧ t.mboxCmd = cmd ∧ t.mboxLen = BitVec.ofNat lenW payload.length ∧
        t.mboxData = s.mboxData.writeBytes 0 payload) := by
  rcases exec_cases i s with h' | ⟨dir, selector, tail, hd, h'⟩ <;> rw [h'] at h <;>
    obtain rfl := Host.Outcome.next.inj h
  · exact .inl ⟨rfl, rfl, rfl, rfl⟩
  · rcases runFrame_cases dir selector tail s with ⟨e, he⟩ | ⟨p, hp, he | he⟩ <;> rw [he]
    · exact .inl ⟨rfl, rfl, rfl, rfl⟩
    all_goals
      cases dir with
      | request =>
        rw [acceptFrame_request]
        split
        · exact .inl ⟨rfl, rfl, rfl, rfl⟩
        · rename_i hf
          exact .inr ⟨by simpa using hf, rfl, selector, p, hd rfl, hp, rfl, rfl, rfl⟩
      | response =>
        rw [acceptFrame_response]
        exact .inl ⟨rfl, rfl, rfl, rfl⟩

/-- A frame writes no cell of the reassembly buffer. -/
theorem exec_buf {i : Instr} {s t : State} (h : exec i s = .next t) : t.buf = s.buf := by
  rcases exec_cases i s with h' | ⟨dir, selector, tail, hd, h'⟩ <;> rw [h'] at h <;>
    obtain rfl := Host.Outcome.next.inj h
  · rfl
  · rcases runFrame_cases dir selector tail s with ⟨e, he⟩ | ⟨p, hp, he | he⟩ <;> rw [he]
    · rfl
    all_goals
      cases dir with
      | request =>
        rw [acceptFrame_request]
        split <;> rfl
      | response => rw [acceptFrame_response] <;> rfl

end Sys2Proof.Machine
end

