-- ==== Sys2Proof/Laws/Forms.lean ====
section
/-! SUPPORT. The lists of forms that the statements quantify over, as one call of `runFrame` each. -/

namespace Sys2Proof.Machine

/-- The Request forms, listed by command id. -/
theorem requestForms_eq (tail : Tail) :
    requestForms tail =
      [0#8, 1#8, 2#8, 3#8, 4#8, 5#8, 6#8, 7#8, 8#8].map fun cmd => (instrOf .request cmd tail, cmd) :=
  rfl

/-- The named Response forms, listed by status code. -/
theorem responseForms_eq (tail : Tail) :
    responseForms tail =
      [0#8, 1#8, 128#8, 129#8, 130#8, 131#8, 132#8, 133#8, 134#8].map
        fun status => (instrOf .response status tail, status) := rfl

theorem requestForms_cases {tail : Tail} {i : Instr} {cmd : Byte} (h : (i, cmd) ∈ requestForms tail) :
    i = instrOf .request cmd tail ∧ cmd.toNat < cmdMax := by
  rw [requestForms_eq, List.mem_map] at h
  obtain ⟨c, hc, he⟩ := h
  cases he
  have legal : ∀ c ∈ [0#8, 1#8, 2#8, 3#8, 4#8, 5#8, 6#8, 7#8, 8#8], c.toNat < cmdMax := by decide
  exact ⟨rfl, legal _ hc⟩

theorem responseForms_cases {tail : Tail} {i : Instr} {status : Byte}
    (h : (i, status) ∈ responseForms tail) : i = instrOf .response status tail := by
  rw [responseForms_eq, List.mem_map] at h
  obtain ⟨c, _, he⟩ := h
  cases he
  rfl

/-- exec of a Request form. -/
theorem exec_requestForms {tail : Tail} {i : Instr} {cmd : Byte} (s : State)
    (h : (i, cmd) ∈ requestForms tail) : exec i s = .next (runFrame .request cmd tail s) := by
  obtain ⟨rfl, hc⟩ := requestForms_cases h
  exact exec_instrOf tail s fun _ => hc

/-- exec of a named Response form. -/
theorem exec_responseForms {tail : Tail} {i : Instr} {status : Byte} (s : State)
    (h : (i, status) ∈ responseForms tail) : exec i s = .next (runFrame .response status tail s) := by
  rw [responseForms_cases h]
  exact exec_instrOf tail s nofun

/-- exec of any frame that can end complete. -/
theorem exec_frameForms {unnamed : Byte} {tail : Tail} {i : Instr} {dir : Direction}
    {selector : Byte} (s : State) (h : (i, dir, selector) ∈ frameForms unnamed tail) :
    exec i s = .next (runFrame dir selector tail s) := by
  simp only [frameForms, List.mem_append, List.mem_map, List.mem_singleton, Prod.mk.injEq,
    Prod.exists] at h
  rcases h with (⟨i', c', hm, rfl, rfl, rfl⟩ | ⟨i', c', hm, rfl, rfl, rfl⟩) | ⟨rfl, rfl, rfl⟩
  · exact exec_requestForms s hm
  · exact exec_responseForms s hm
  · rfl

end Sys2Proof.Machine
end

