-- ==== Sys2Proof/Laws/PerInstr.lean ====
section
/-! SUPPORT. A statement for every instruction, one lemma per constructor: the encoding of the instruction
matches its row of spec/opcode_table.json (30_encoding R81). -/

namespace Sys2Proof.Laws

open Sys2Proof

/-- The first five wire bytes of the encoded instruction match its row under the row's mask. -/
def EncodingMatchesRow.Statement (i : Instr) : Prop :=
  ∀ c : Config, c.wireOrder = .littleEndian → i.row.covers (tableKey (encode c i)) = true

/-- The 40-bit key of a byte sequence that begins with an encoded header. -/
theorem EncodingMatchesRow.tableKey_header {c : Config} (h : c.wireOrder = .littleEndian)
    (magic : Word) (selector : Byte) (size : Half) (rest : List Byte) :
    tableKey (headerBytes c magic selector size ++ rest) =
      magic.toNat + 2 ^ 32 * selector.toNat := by
  have hm := magic.isLt
  simp only [headerBytes, h, bytes32, bytes16, tableKey, List.cons_append, List.nil_append,
    List.getD_cons_zero, List.getD_cons_succ, byteOf_toNat]
  omega

/-- The key of an encoded instruction: its magic and its selector. -/
theorem EncodingMatchesRow.tableKey_encode {c : Config} (h : c.wireOrder = .littleEndian) (i : Instr) :
    tableKey (encode c i) = i.head.1.magic.toNat + 2 ^ 32 * i.head.2.toNat := by
  unfold encode
  split
  · rw [coveredBytes, List.append_assoc, tableKey_header h]
  · rw [← tableKey_header h i.head.1.magic i.head.2 _ [], List.append_nil]

/-- A row with the full mask covers the key it names. -/
theorem EncodingMatchesRow.of_key {i : Instr}
    (h : i.row.covers (i.head.1.magic.toNat + 2 ^ 32 * i.head.2.toNat) = true) :
    EncodingMatchesRow.Statement i := by
  intro c hc
  rw [tableKey_encode hc]
  exact h

theorem EncodingMatchesRow.fullMask_request :
    ∀ selector : Byte, (TableRow.mk 0xFFFFFFFFFF (reqMagic.toNat + 2 ^ 32 * selector.toNat)).covers
      (reqMagic.toNat + 2 ^ 32 * selector.toNat) = true := by decide

theorem EncodingMatchesRow.fullMask_response :
    ∀ selector : Byte, (TableRow.mk 0xFFFFFFFFFF (respMagic.toNat + 2 ^ 32 * selector.toNat)).covers
      (respMagic.toNat + 2 ^ 32 * selector.toNat) = true := by decide

theorem EncodingMatchesRow.catchAll_request :
    ∀ selector : Byte, (TableRow.mk 0x00FFFFFFFF 0x00004D4C46).covers
      (reqMagic.toNat + 2 ^ 32 * selector.toNat) = true := by decide

theorem EncodingMatchesRow.catchAll_response :
    ∀ selector : Byte, (TableRow.mk 0x00FFFFFFFF 0x0000524C4D).covers
      (respMagic.toNat + 2 ^ 32 * selector.toNat) = true := by decide

theorem EncodingMatchesRow.turnOff (t : Tail) :
    EncodingMatchesRow.Statement (.turnOff t) := of_key (fullMask_request 0)

theorem EncodingMatchesRow.turnOn (t : Tail) :
    EncodingMatchesRow.Statement (.turnOn t) := of_key (fullMask_request 1)

theorem EncodingMatchesRow.getInfo (t : Tail) :
    EncodingMatchesRow.Statement (.getInfo t) := of_key (fullMask_request 2)

theorem EncodingMatchesRow.setBrightness (t : Tail) :
    EncodingMatchesRow.Statement (.setBrightness t) := of_key (fullMask_request 3)

theorem EncodingMatchesRow.setColor (t : Tail) :
    EncodingMatchesRow.Statement (.setColor t) := of_key (fullMask_request 4)

theorem EncodingMatchesRow.setEffect (t : Tail) :
    EncodingMatchesRow.Statement (.setEffect t) := of_key (fullMask_request 5)

theorem EncodingMatchesRow.getBrightness (t : Tail) :
    EncodingMatchesRow.Statement (.getBrightness t) := of_key (fullMask_request 6)

theorem EncodingMatchesRow.getEffect (t : Tail) :
    EncodingMatchesRow.Statement (.getEffect t) := of_key (fullMask_request 7)

theorem EncodingMatchesRow.getOnState (t : Tail) :
    EncodingMatchesRow.Statement (.getOnState t) := of_key (fullMask_request 8)

theorem EncodingMatchesRow.reqIllegal (selector : Byte) (size : Half) :
    EncodingMatchesRow.Statement (.reqIllegal selector size) :=
  of_key (catchAll_request selector)

theorem EncodingMatchesRow.respOk (t : Tail) :
    EncodingMatchesRow.Statement (.respOk t) := of_key (fullMask_response 0)

theorem EncodingMatchesRow.respPing (t : Tail) :
    EncodingMatchesRow.Statement (.respPing t) := of_key (fullMask_response 1)

theorem EncodingMatchesRow.respInvalidCommand (t : Tail) :
    EncodingMatchesRow.Statement (.respInvalidCommand t) := of_key (fullMask_response 128)

theorem EncodingMatchesRow.respInvalidHeader (t : Tail) :
    EncodingMatchesRow.Statement (.respInvalidHeader t) := of_key (fullMask_response 129)

theorem EncodingMatchesRow.respInvalidData (t : Tail) :
    EncodingMatchesRow.Statement (.respInvalidData t) := of_key (fullMask_response 130)

theorem EncodingMatchesRow.respInvalidFooter (t : Tail) :
    EncodingMatchesRow.Statement (.respInvalidFooter t) := of_key (fullMask_response 131)

theorem EncodingMatchesRow.respNotReady (t : Tail) :
    EncodingMatchesRow.Statement (.respNotReady t) := of_key (fullMask_response 132)

theorem EncodingMatchesRow.respTimeout (t : Tail) :
    EncodingMatchesRow.Statement (.respTimeout t) := of_key (fullMask_response 133)

theorem EncodingMatchesRow.respDataTooLarge (t : Tail) :
    EncodingMatchesRow.Statement (.respDataTooLarge t) := of_key (fullMask_response 134)

theorem EncodingMatchesRow.respUnnamed (status : Byte) (t : Tail) :
    EncodingMatchesRow.Statement (.respUnnamed status t) :=
  of_key (catchAll_response status)

end Sys2Proof.Laws
end

