-- ==== Sys2Proof/Laws/Step.lean ====
section
/-! SUPPORT. What one step can do: the inversion lemmas of `rxByte`, `poll` and `step`, and the paths of a
received byte one by one. -/

namespace Sys2Proof.Machine

/-! ### staleCheck, moreData -/

theorem staleCheck_of_stale {s : State} {t : Nat} (h : s.stale t = true) :
    staleCheck t s = s.clearBuffer.emit [.log .staleDiscard] := by
  unfold staleCheck
  rw [if_pos h]

theorem staleCheck_of_fresh {s : State} {t : Nat} (h : s.stale t = false) : staleCheck t s = s := by
  unfold staleCheck
  rw [if_neg (by simp [h])]

theorem stale_of_empty {s : State} {t : Nat} (h : s.len = 0) : s.stale t = false := by
  simp [State.stale, h]

/-- A stale check discards the partial frame, or does nothing. -/
theorem staleCheck_cases (t : Nat) (s : State) :
    staleCheck t s = s ∨ staleCheck t s = s.clearBuffer.emit [.log .staleDiscard] := by
  cases h : s.stale t with
  | false => exact .inl (staleCheck_of_fresh h)
  | true => exact .inr (staleCheck_of_stale h)

/-! ### A received byte -/

theorem bufBytes_ok {s : State} {n : Nat} {bytes : List Byte} :
    s.bufBytes n = .ok bytes ↔ s.buf.readBytes 0 n = some bytes := by
  unfold State.bufBytes
  split <;> simp_all

theorem completionCheck_cases {t : Nat} {s s' : State} (h : completionCheck t s = .next s') :
    s' = moreData t s ∨ ∃ i, exec i s = .next s' := by
  unfold completionCheck at h
  split at h
  · cases h
    exact .inl rfl
  · split at h
    · cases h
    · simp only at h
      split at h
      · cases h
        exact .inl rfl
      · split at h
        · cases h
        · split at h
          · cases h
          · exact .inr ⟨_, h⟩

theorem headerCheck_cases {t : Nat} {s s' : State} (h : headerCheck t s = .next s') :
    s' = raiseError .invalidHeader s ∨
      ∃ s₂, (s₂ = s ∨ s₂ = s.validateHeader) ∧
        (s' = moreData t s₂ ∨ ∃ i, exec i s₂ = .next s') := by
  unfold headerCheck at h
  split at h
  · exact .inr ⟨s, .inl rfl, completionCheck_cases h⟩
  · split at h
    · cases h
    · split at h
      · cases h
        exact .inl rfl
      · exact .inr ⟨s, .inl rfl, .inr ⟨_, h⟩⟩
      · exact .inr ⟨s, .inl rfl, .inr ⟨_, h⟩⟩
      · exact .inr ⟨_, .inr rfl, completionCheck_cases h⟩

/-- Everything a received byte can do: overflow, a bad magic, more data, or run an instruction. -/
theorem rxByte_cases {b : Byte} {t : Nat} {s s' : State} (h : rxByte b t s = .next s') :
    s' = raiseError .dataTooLarge (staleCheck t s) ∨
      s' = raiseError .invalidHeader ((staleCheck t s).storeByte b) ∨
      ∃ s₂, (s₂ = (staleCheck t s).storeByte b ∨
          s₂ = ((staleCheck t s).storeByte b).validateHeader) ∧
        (s' = moreData t s₂ ∨ ∃ i, exec i s₂ = .next s') := by
  unfold rxByte appendByte at h
  split at h
  · cases h
    exact .inl rfl
  · rename_i s₁ hs
    split at hs
    · cases hs
    · cases hs
      exact .inr (headerCheck_cases h)

/-- Where there is room for a byte, the fill position does not wrap (40_reassembler R112 (a)). -/
theorem storeByte_len_toNat {s : State} (b : Byte) (h : s.len.toNat < capacity s.cfg) :
    (s.storeByte b).len.toNat = s.len.toNat + 1 := by
  have hc := capacity_lt s.cfg
  rw [storeByte_len, BitVec.toNat_add]
  exact Nat.mod_eq_of_lt (Nat.lt_of_le_of_lt h hc)

/-- A received byte that there is room for. -/
theorem rxByte_of_room {b : Byte} {t : Nat} {s : State} (hs : s.stale t = false)
    (hl : s.len.toNat < capacity s.cfg) : rxByte b t s = headerCheck t (s.storeByte b) := by
  unfold rxByte appendByte
  rw [staleCheck_of_fresh hs, if_neg (by omega)]

theorem headerCheck_short {t : Nat} {s : State} (hv : s.headerValidated = false)
    (hl : s.len.toNat < headerSize) : headerCheck t s = .next (moreData t s) := by
  unfold headerCheck completionCheck
  rw [if_pos (.inr hl), if_pos hv]

theorem headerCheck_validated {t : Nat} {s : State} (hv : s.headerValidated = true) :
    headerCheck t s = completionCheck t s := by
  unfold headerCheck
  rw [if_pos (.inl hv)]

/-- The byte that makes seven, by the verdict on the header. -/
theorem headerCheck_seven {t : Nat} {s : State} {hdr : List Byte} (hv : s.headerValidated = false)
    (hl : headerSize ≤ s.len.toNat) (hb : s.bufBytes headerSize = .ok hdr) :
    headerCheck t s =
      match judgeHeader s.cfg hdr with
      | .badMagic => .next (raiseError .invalidHeader s)
      | .badCommand selector size => exec (.reqIllegal selector size) s
      | .tooLarge dir selector size => exec (instrOf dir selector (.oversize size)) s
      | .legal _ _ _ => completionCheck t s.validateHeader := by
  unfold headerCheck
  rw [if_neg (by simp [hv]; simpa using hl), hb] <;> rfl

/-- Completion, with the header in the buffer readable. -/
theorem completionCheck_of_header {t : Nat} {s : State} {hdr : List Byte} {size : Half}
    (hv : s.headerValidated = true) (hb : s.bufBytes headerSize = .ok hdr)
    (hz : half16 s.cfg.wireOrder (hdr.drop 5) = size) :
    completionCheck t s =
      if s.len.toNat < frameLength s.cfg size.toNat then .next (moreData t s)
      else
        match s.bufBytes (frameLength s.cfg size.toNat) with
        | .error f => .fault f
        | .ok bytes =>
            match decode s.cfg bytes with
            | .error _ => .fault .headerCorrupt
            | .ok (i, _) => exec i s := by
  unfold completionCheck
  rw [if_neg (by simp [hv]), hb]
  simp only [hz] <;> rfl

/-! ### A poll -/

theorem mailboxBytes_ok {s : State} {payload : List Byte} (h : s.mailboxBytes = .ok payload) :
    s.mboxLen.toNat ≤ maxDataSize ∧ s.mboxData.readBytes 0 s.mboxLen.toNat = some payload := by
  unfold State.mailboxBytes at h
  split at h
  · cases h
  · rename_i hl
    split at h
    · rename_i hb
      cases h
      exact ⟨by omega, hb⟩
    · cases h

/-- Everything a poll can do: nothing, or dispatch the pending Request. -/
theorem poll_cases {answer : CallAnswer} {s s' : State} (h : poll answer s = .next s') :
    (s.mboxFull = false ∧ s' = s) ∨
      ∃ payload, ∃ hc : s.mboxCmd.toNat < cmdMax, s.mboxFull = true ∧
        s.mailboxBytes = .ok payload ∧ s' = dispatch s.mboxCmd.toNat hc payload answer s := by
  unfold poll at h
  split at h
  · rename_i hf
    cases h
    exact .inl ⟨hf, rfl⟩
  · rename_i hf
    split at h
    · cases h
    · rename_i payload hp
      split at h
      · rename_i hc
        cases h
        exact .inr ⟨payload, hc, by simpa using hf, hp, rfl⟩
      · cases h

theorem poll_of_full {answer : CallAnswer} {s : State} {payload : List Byte}
    (hf : s.mboxFull = true) (hp : s.mailboxBytes = .ok payload) (hc : s.mboxCmd.toNat < cmdMax) :
    poll answer s = .next (dispatch s.mboxCmd.toNat hc payload answer s) := by
  unfold poll
  rw [if_neg (by simp [hf]), hp]
  simp only [dif_pos hc]

/-- A dispatch changes the trace, the transport's answers and the mailbox flag only. -/
theorem dispatch_eq (cmd : Nat) (h : cmd < cmdMax) (payload : List Byte) (answer : CallAnswer)
    (s : State) :
    dispatch cmd h payload answer s = { s with
      mboxFull := false
      out := (dispatch cmd h payload answer s).out
      txAnswers := (dispatch cmd h payload answer s).txAnswers } := rfl

/-- The trace of a dispatch: the call, if there is one, then the send of the mapped answer. -/
theorem dispatch_out (cmd : Nat) (h : cmd < cmdMax) (payload : List Byte) (answer : CallAnswer)
    (s : State) :
    (dispatch cmd h payload answer s).out = s.out ++ (resolve s cmd h payload answer).1 ++
      (writeLoop s.cfg.txRetryDelayMs
        (serializeResponse s.cfg (mapResult s.cfg (resolve s cmd h payload answer).2).1
          (mapResult s.cfg (resolve s cmd h payload answer).2).2)
        s.cfg.txRetryMax s.txAnswers).1 := rfl

/-- What the multiplexer selects: a call with the environment's answer to it, or `NotReady`. -/
theorem resolve_cases (s : State) (cmd : Nat) (h : cmd < cmdMax) (payload : List Byte)
    (answer : CallAnswer) :
    (s.cfg.forwardEn = true ∧ s.fwdValid[cmd] = true ∧ resolve s cmd h payload answer =
        ([.fwdCall s.fwdTarget[cmd] (BitVec.ofNat 8 cmd) payload], answer)) ∨
      ((s.cfg.forwardEn = false ∨ s.fwdValid[cmd] = false) ∧ s.handlerValid[cmd] = true ∧
        resolve s cmd h payload answer =
          ([.handlerCall s.handlerId[cmd] (BitVec.ofNat 8 cmd) payload], answer)) ∨
      ((s.cfg.forwardEn = false ∨ s.fwdValid[cmd] = false) ∧ s.handlerValid[cmd] = false ∧
        resolve s cmd h payload answer = ([], .err notReadyCode)) := by
  unfold resolve
  cases s.cfg.forwardEn <;> cases s.fwdValid[cmd] <;> cases s.handlerValid[cmd] <;> simp

/-- A mapped payload fits the response buffer (42_mailbox_dispatch R151). -/
theorem mapResult_length (c : Config) (r : CallAnswer) :
    (mapResult c r).2.length ≤ c.respBufCap := by
  cases r <;> simp [mapResult]

/-! ### The FIFO and the registrations -/

theorem pushByte_of_room {s : State} (b : Byte) (h : s.rxFifo.length < s.cfg.rxFifoDepth) :
    pushByte b s = s.withFifo (s.rxFifo ++ [b]) := by
  unfold pushByte
  rw [if_pos h]

theorem pushByte_of_full {s : State} (b : Byte) (h : s.cfg.rxFifoDepth ≤ s.rxFifo.length) :
    pushByte b s = s.emit [.log .rxFifoOverflow] := by
  unfold pushByte
  rw [if_neg (by omega)]

theorem popByte_of_empty {s : State} (t : Nat) (h : s.rxFifo = []) : popByte t s = .next s := by
  unfold popByte
  rw [h]

theorem popByte_of_cons {s : State} {b : Byte} {q : List Byte} (t : Nat) (h : s.rxFifo = b :: q) :
    popByte t s = rxByte b t (s.withFifo q) := by
  unfold popByte
  rw [h]

theorem regHandler_of_lt {cmd : Byte} {s : State} (hid : HandlerId) (h : cmd.toNat < cmdMax) :
    regHandler cmd hid s = s.setHandler cmd.toNat h hid := dif_pos h

theorem regHandler_of_ge {cmd : Byte} {s : State} (hid : HandlerId) (h : cmdMax ≤ cmd.toNat) :
    regHandler cmd hid s = s.emit [.log .cfgRefused] := dif_neg (Nat.not_lt.mpr h)

theorem regForward_of_lt {cmd : Byte} {s : State} (target : CtxId) (h : cmd.toNat < cmdMax) :
    regForward cmd target s = s.setForward cmd.toNat h target := dif_pos h

theorem regForward_of_ge {cmd : Byte} {s : State} (target : CtxId) (h : cmdMax ≤ cmd.toNat) :
    regForward cmd target s = s.emit [.log .cfgRefused] := dif_neg (Nat.not_lt.mpr h)

/-! ### A step -/

/-- A step handles the oldest input. -/
theorem step_of_inputs {s : State} {e : Event} {rest : List Event} (h : s.inputs = e :: rest) :
    step s = handle e (s.withInputs rest) := by
  unfold step
  rw [h]

theorem step_idle {s : State} (h : s.inputs = []) : step s = .next s := by
  unfold step
  rw [h]

/-- Everything a step can do. -/
theorem step_cases {s s' : State} (h : step s = .next s') :
    (s.inputs = [] ∧ s' = s) ∨
      ∃ e rest, s.inputs = e :: rest ∧
        ((e = .reset ∧ s' = resetContext (s.withInputs rest)) ∨
          (∃ cmd hid, e = .regHandler cmd hid ∧ s' = regHandler cmd hid (s.withInputs rest)) ∨
          (∃ cmd target, e = .regForward cmd target ∧
            s' = regForward cmd target (s.withInputs rest)) ∨
          (∃ b t, e = .rxByte b t ∧ rxByte b t (s.withInputs rest) = .next s') ∨
          (∃ answer, e = .poll answer ∧ poll answer (s.withInputs rest) = .next s') ∨
          (∃ b, e = .push b ∧ s' = pushByte b (s.withInputs rest)) ∨
          (∃ t, e = .pop t ∧ s.rxFifo = [] ∧ s' = s.withInputs rest) ∨
          (∃ t b q, e = .pop t ∧ s.rxFifo = b :: q ∧
            rxByte b t ((s.withInputs rest).withFifo q) = .next s')) := by
  cases hi : s.inputs with
  | nil =>
    rw [step_idle hi] at h
    cases h
    exact .inl ⟨rfl, rfl⟩
  | cons e rest =>
    rw [step_of_inputs hi] at h
    refine .inr ⟨e, rest, rfl, ?_⟩
    cases e with
    | reset => cases h; exact .inl ⟨rfl, rfl⟩
    | regHandler cmd hid => cases h; exact .inr (.inl ⟨cmd, hid, rfl, rfl⟩)
    | regForward cmd target => cases h; exact .inr (.inr (.inl ⟨cmd, target, rfl, rfl⟩))
    | rxByte b t => exact .inr (.inr (.inr (.inl ⟨b, t, rfl, h⟩)))
    | poll answer => exact .inr (.inr (.inr (.inr (.inl ⟨answer, rfl, h⟩))))
    | push b => cases h; exact .inr (.inr (.inr (.inr (.inr (.inl ⟨b, rfl, rfl⟩)))))
    | pop t =>
      simp only [handle, popByte] at h
      split at h
      · rename_i hq
        cases h
        exact .inr (.inr (.inr (.inr (.inr (.inr (.inl ⟨t, rfl, hq, rfl⟩))))))
      · rename_i b q hq
        exact .inr (.inr (.inr (.inr (.inr (.inr (.inr ⟨t, b, q, rfl, hq, h⟩))))))

/-- A run whose first step gives a next state. -/
theorem core_run_succ {s t : State} (k : Nat) (h : step s = .next t) :
    Host.Core.run Sys2Proof.core (k + 1) s = Host.Core.run Sys2Proof.core k t := by
  have h' : Host.Core.step Sys2Proof.core s = .next t := h
  simp only [Host.Core.run, h']

end Sys2Proof.Machine
end

