-- ==== Sys2Proof/Tests/Slice0.lean ====
section
/-! SUPPORT. The model's own tests: the words of 95_test_vectors written out, one step on a small state
each, with the outcome the vector states; and a witness for the hypotheses of every statement. -/

namespace Sys2Proof.Tests

open Sys2Proof Sys2Proof.Machine

/-! ### Helpers -/

/-- Mode A of 95_test_vectors. -/
def modeA : Config := { Config.default with checksumMode := .absent }

/-- Mode E of 95_test_vectors: the reference CRC-32 of 41_checksum R136. -/
def modeE : Config := { Config.default with checksumFn := .reference }

/-- Mode E with a mismatch ignored. -/
def modeI : Config := { modeE with checksumMode := .ignored }

/-- After reset, with the given bytes of a frame received at tick `last` (its header legal, if whole). -/
def mid (c : Config) (bytes : List Byte) (last : Nat) : State :=
  { State.created c with
    buf := Memory.writeBytes [] 0 bytes
    len := BitVec.ofNat lenW bytes.length
    headerValidated := decide (headerSize ≤ bytes.length)
    lastActivity := last }

/-- The same state with one byte offered. -/
def offer (s : State) (b : Byte) (t : Nat) : State := { s with inputs := [.rxByte b t] }

/-- The step of the last byte of a frame, all bytes at tick 0. -/
def lastByte (c : Config) (bytes : List Byte) : Result :=
  step (offer (mid c bytes.dropLast 0) (bytes.getLastD 0#8) 0)

/-- What a step shows: the fill position, the flag, the mailbox flag and command, and the trace. -/
def seen : Result → Option (Nat × Bool × Bool × Byte × List OutEvent)
  | .next s => some (s.len.toNat, s.headerValidated, s.mboxFull, s.mboxCmd, s.out)
  | _ => none

/-- The payload a step leaves in the mailbox. -/
def mailbox : Result → Option (List Byte)
  | .next s => if s.mboxFull then s.mboxData.readBytes 0 s.mboxLen.toNat else none
  | _ => none

/-- The trace a step leaves. -/
def traced : Result → Option (List OutEvent)
  | .next s => some s.out
  | _ => none

/-- The end state of V30: `SB` in the mailbox. -/
def pending (c : Config) : State := (State.created c).fillMailbox 3#8 [0x32, 0x03]

/-- `OK0` of 95_test_vectors, mode A. -/
def ok0 : List Byte := [0x4D, 0x4C, 0x52, 0x00, 0x00, 0x00, 0x00, 0x6C, 0x65, 0x64, 0x73]

/-- `ERR(c)` of 95_test_vectors, mode A. -/
def err (c : Byte) : List Byte := [0x4D, 0x4C, 0x52, 0x00, c, 0x00, 0x00, 0x6C, 0x65, 0x64, 0x73]

/-- The trace of a frame error, mode A, every write answered `Ok`. -/
def errTrace (c : Byte) : List OutEvent :=
  [.log (.frameError c), .txAttempt (err c), .rxOutcome (.error c)]

/-! ### WellFormed refuses ill-formed terms -/

theorem test_wf_payload_too_long :
    (Instr.turnOff (.complete (List.replicate 2049 0#8) none footerMagic)).wellFormed modeA = false := by
  decide +kernel
theorem test_wf_checksum_in_absent_build :
    (Instr.turnOn (.complete [] (some 0#32) footerMagic)).wellFormed modeA = false := by decide
theorem test_wf_checksum_missing :
    (Instr.respOk (.complete [] none footerMagic)).wellFormed modeE = false := by decide
theorem test_wf_size_not_oversize :
    (Instr.getInfo (.oversize 2048#16)).wellFormed modeA = false := by decide
theorem test_wf_illegal_selector_is_legal :
    (Instr.reqIllegal 8#8 0#16).wellFormed modeA = false := by decide
theorem test_wf_unnamed_status_is_named :
    (Instr.respUnnamed 134#8 (.complete [] none footerMagic)).wellFormed modeA = false ∧
      (Instr.respUnnamed 1#8 (.complete [] none footerMagic)).wellFormed modeA = false := by decide

/-! ### Decoding the words of V70 to V72, written out; mode A -/

theorem test_decode_turnOff :
    decode modeA
      [0x46, 0x4C, 0x4D, 0x00, 0x00, 0x00, 0x00, 0x6C, 0x65, 0x64, 0x73] =
        .ok (.turnOff (.complete [] none footerMagic), []) := by rfl
theorem test_decode_turnOn :
    decode modeA
      [0x46, 0x4C, 0x4D, 0x00, 0x01, 0x00, 0x00, 0x6C, 0x65, 0x64, 0x73] =
        .ok (.turnOn (.complete [] none footerMagic), []) := by rfl
theorem test_decode_getInfo :
    decode modeA
      [0x46, 0x4C, 0x4D, 0x00, 0x02, 0x00, 0x00, 0x6C, 0x65, 0x64, 0x73] =
        .ok (.getInfo (.complete [] none footerMagic), []) := by rfl
theorem test_decode_setBrightness :
    decode modeA
      [0x46, 0x4C, 0x4D, 0x00, 0x03, 0x02, 0x00, 0x32, 0x03, 0x6C, 0x65, 0x64, 0x73] =
        .ok (.setBrightness (.complete [0x32, 0x03] none footerMagic), []) := by rfl
theorem test_decode_setColor :
    decode modeA
      [0x46, 0x4C, 0x4D, 0x00, 0x04, 0x05, 0x00, 0x01, 0x6C, 0x65, 0x64, 0x73, 0x6C, 0x65, 0x64, 0x73] =
        .ok (.setColor (.complete [0x01, 0x6C, 0x65, 0x64, 0x73] none footerMagic), []) := by rfl
theorem test_decode_setEffect :
    decode modeA
      [0x46, 0x4C, 0x4D, 0x00, 0x05, 0x07, 0x00, 0x01, 0x0A, 0x03, 0x00, 0x80, 0xFF, 0x00, 0x6C, 0x65, 0x64, 0x73] =
        .ok (.setEffect (.complete [0x01, 0x0A, 0x03, 0x00, 0x80, 0xFF, 0x00] none footerMagic), []) := by rfl
theorem test_decode_getBrightness :
    decode modeA
      [0x46, 0x4C, 0x4D, 0x00, 0x06, 0x00, 0x00, 0x6C, 0x65, 0x64, 0x73] =
        .ok (.getBrightness (.complete [] none footerMagic), []) := by rfl
theorem test_decode_getEffect :
    decode modeA
      [0x46, 0x4C, 0x4D, 0x00, 0x07, 0x00, 0x00, 0x6C, 0x65, 0x64, 0x73] =
        .ok (.getEffect (.complete [] none footerMagic), []) := by rfl
theorem test_decode_getOnState :
    decode modeA
      [0x46, 0x4C, 0x4D, 0x00, 0x08, 0x00, 0x00, 0x6C, 0x65, 0x64, 0x73] =
        .ok (.getOnState (.complete [] none footerMagic), []) := by rfl
theorem test_decode_reqIllegal :
    decode modeA [0x46, 0x4C, 0x4D, 0x00, 0x09, 0x02, 0x00, 0xAA] = .ok (.reqIllegal 9#8 2#16, [0xAA]) ∧
      decode modeA [0x46, 0x4C, 0x4D, 0x00, 0xFF, 0xB8, 0x0B] = .ok (.reqIllegal 255#8 3000#16, []) :=
  ⟨rfl, rfl⟩
theorem test_decode_respOk :
    decode modeA
      [0x4D, 0x4C, 0x52, 0x00, 0x00, 0x05, 0x00, 0x01, 0x5A, 0x00, 0xD8, 0x00, 0x6C, 0x65, 0x64, 0x73] =
        .ok (.respOk (.complete [0x01, 0x5A, 0x00, 0xD8, 0x00] none footerMagic), []) := by rfl
theorem test_decode_respPing :
    decode modeA
      [0x4D, 0x4C, 0x52, 0x00, 0x01, 0x00, 0x00, 0x6C, 0x65, 0x64, 0x73] =
        .ok (.respPing (.complete [] none footerMagic), []) := by rfl
theorem test_decode_respInvalidCommand :
    decode modeA
      [0x4D, 0x4C, 0x52, 0x00, 0x80, 0x00, 0x00, 0x6C, 0x65, 0x64, 0x73] =
        .ok (.respInvalidCommand (.complete [] none footerMagic), []) := by rfl
theorem test_decode_respInvalidHeader :
    decode modeA
      [0x4D, 0x4C, 0x52, 0x00, 0x81, 0x00, 0x00, 0x6C, 0x65, 0x64, 0x73] =
        .ok (.respInvalidHeader (.complete [] none footerMagic), []) := by rfl
theorem test_decode_respInvalidData :
    decode modeA
      [0x4D, 0x4C, 0x52, 0x00, 0x82, 0x00, 0x00, 0x6C, 0x65, 0x64, 0x73] =
        .ok (.respInvalidData (.complete [] none footerMagic), []) := by rfl
theorem test_decode_respInvalidFooter :
    decode modeA
      [0x4D, 0x4C, 0x52, 0x00, 0x83, 0x00, 0x00, 0x6C, 0x65, 0x64, 0x73] =
        .ok (.respInvalidFooter (.complete [] none footerMagic), []) := by rfl
theorem test_decode_respNotReady :
    decode modeA
      [0x4D, 0x4C, 0x52, 0x00, 0x84, 0x00, 0x00, 0x6C, 0x65, 0x64, 0x73] =
        .ok (.respNotReady (.complete [] none footerMagic), []) := by rfl
theorem test_decode_respTimeout :
    decode modeA
      [0x4D, 0x4C, 0x52, 0x00, 0x85, 0x00, 0x00, 0x6C, 0x65, 0x64, 0x73] =
        .ok (.respTimeout (.complete [] none footerMagic), []) := by rfl
theorem test_decode_respDataTooLarge :
    decode modeA
      [0x4D, 0x4C, 0x52, 0x00, 0x86, 0x00, 0x00, 0x6C, 0x65, 0x64, 0x73] =
        .ok (.respDataTooLarge (.complete [] none footerMagic), []) := by rfl
theorem test_decode_respUnnamed :
    decode modeA [0x4D, 0x4C, 0x52, 0x00, 0x4D, 0x00, 0x00, 0x6C, 0x65, 0x64, 0x73] =
      .ok (.respUnnamed 77#8 (.complete [] none footerMagic), []) := by rfl
/-- V5, V11: the oversize form, either direction. -/
theorem test_decode_oversize :
    decode modeA [0x46, 0x4C, 0x4D, 0x00, 0x03, 0x01, 0x08] =
        .ok (.setBrightness (.oversize 2049#16), []) ∧
      decode modeA [0x4D, 0x4C, 0x52, 0x00, 0x00, 0x01, 0x08] = .ok (.respOk (.oversize 2049#16), []) :=
  ⟨rfl, rfl⟩
/-- V21, mode E: the checksum field is `0x89BF1AA8`. -/
theorem test_decode_checksum_field :
    decode modeE [0x46, 0x4C, 0x4D, 0x00, 0x03, 0x02, 0x00, 0x32, 0x03, 0xA8, 0x1A, 0xBF, 0x89, 0x6C,
      0x65, 0x64, 0x73] =
        .ok (.setBrightness (.complete [0x32, 0x03] (some 0x89BF1AA8#32) footerMagic), []) := by rfl
/-- 00_scope R11: with `BigEndian` the byte indices are reversed. -/
theorem test_decode_big_endian :
    decode { modeA with wireOrder := .bigEndian }
      [0x00, 0x4D, 0x4C, 0x46, 0x03, 0x00, 0x02, 0x32, 0x03, 0x73, 0x64, 0x65, 0x6C] =
        .ok (.setBrightness (.complete [0x32, 0x03] none footerMagic), []) := by rfl
/-- V9, V73: a bad magic is no instruction; a short input is none either. -/
theorem test_decode_rejects :
    decode modeA [0x47, 0x4C, 0x4D, 0x00, 0x03, 0x02, 0x00] = .error .badMagic ∧
      decode modeA [0x46, 0x4C, 0x4D, 0x00, 0x03, 0x02] = .error .shortHeader ∧
      decode modeA [0x46, 0x4C, 0x4D, 0x00, 0x03, 0x02, 0x00, 0x32] = .error .shortBody :=
  ⟨rfl, rfl, rfl⟩
/-- V73. -/
theorem test_table_rows :
    (Instr.row (.setBrightness (.oversize 0#16))).value =
        tableKey [0x46, 0x4C, 0x4D, 0x00, 0x03, 0x02, 0x00] ∧
      (Instr.row (.reqIllegal 9#8 0#16)).covers 0x09004D4C46 = true ∧
      (Instr.row (.respUnnamed 200#8 (.oversize 0#16))).covers 0xC800524C4D = true ∧
      (∀ r ∈ fullMaskRows, r.covers 0x09004D4C46 = false ∧ r.covers 0x03004D4C47 = false) := by decide
theorem test_full_mask_rows_do_not_overlap :
    fullMaskRows.Pairwise (fun a b => a.value ≠ b.value) ∧ fullMaskRows.length = 18 := by decide
/-- A table word of row `SetBrightness`, first in the default build (log 21). -/
theorem test_decodeTableWord :
    decodeTableWord 40 0x03004D4C46 = some (.setBrightness (.complete [] (some 0#32) 0#32)) ∧
      decodeTableWord 40 0x8400524C4D = some (.respNotReady (.complete [] (some 0#32) 0#32)) ∧
      decodeTableWord 40 0x09004D4C46 = some (.reqIllegal 9#8 0#16) :=
  ⟨rfl, rfl, rfl⟩
theorem test_withFetchWord_runs_it :
    step (State.reset.withFetchWord 40 0x09004D4C46) =
      exec (.reqIllegal 9#8 0#16)
        { mid Config.default [0x46, 0x4C, 0x4D, 0x00, 0x09, 0x00, 0x00] 0 with
          headerValidated := false } := by rfl
/-- S2: `GetInfo` answered with `fw_version = 1, leds_top = 90, leds_bottom = 216`. -/
theorem test_payload_shapes :
    GetInfoPayload.pack ⟨1, 90, 216⟩ = [0x01, 0x5A, 0x00, 0xD8, 0x00] ∧
      SetBrightnessPayload.pack ⟨50, 3⟩ = [0x32, 0x03] ∧
      SetColorPayload.pack ⟨1, [0x7364656C]⟩ = [0x01, 0x6C, 0x65, 0x64, 0x73] ∧
      SetEffectPayload.pack ⟨1, 10, 3, 0x00FF8000⟩ = [0x01, 0x0A, 0x03, 0x00, 0x80, 0xFF, 0x00] ∧
      GetEffectPayload.pack ⟨1, 10, 0x00FF8000⟩ = [0x01, 0x0A, 0x00, 0x80, 0xFF, 0x00] := by decide

/-! ### One step: the last byte of a frame (V70, V72), mode A -/

theorem test_step_turnOff :
    seen (lastByte modeA
      [0x46, 0x4C, 0x4D, 0x00, 0x00, 0x00, 0x00, 0x6C, 0x65, 0x64, 0x73]) =
        some (0, false, true, 0x00, [.rxOutcome (.frame .request 0x00 [])]) := by decide
theorem test_step_turnOn :
    seen (lastByte modeA
      [0x46, 0x4C, 0x4D, 0x00, 0x01, 0x00, 0x00, 0x6C, 0x65, 0x64, 0x73]) =
        some (0, false, true, 0x01, [.rxOutcome (.frame .request 0x01 [])]) := by decide
theorem test_step_getInfo :
    seen (lastByte modeA
      [0x46, 0x4C, 0x4D, 0x00, 0x02, 0x00, 0x00, 0x6C, 0x65, 0x64, 0x73]) =
        some (0, false, true, 0x02, [.rxOutcome (.frame .request 0x02 [])]) := by decide
theorem test_step_setBrightness :
    seen (lastByte modeA
      [0x46, 0x4C, 0x4D, 0x00, 0x03, 0x02, 0x00, 0x32, 0x03, 0x6C, 0x65, 0x64, 0x73]) =
        some (0, false, true, 0x03, [.rxOutcome (.frame .request 0x03 [0x32, 0x03])]) := by decide
theorem test_step_setColor :
    seen (lastByte modeA
      [0x46, 0x4C, 0x4D, 0x00, 0x04, 0x05, 0x00, 0x01, 0x6C, 0x65, 0x64, 0x73, 0x6C, 0x65, 0x64, 0x73]) =
        some (0, false, true, 0x04, [.rxOutcome (.frame .request 0x04 [0x01, 0x6C, 0x65, 0x64, 0x73])]) := by decide
theorem test_step_setEffect :
    seen (lastByte modeA
      [0x46, 0x4C, 0x4D, 0x00, 0x05, 0x07, 0x00, 0x01, 0x0A, 0x03, 0x00, 0x80, 0xFF, 0x00, 0x6C, 0x65, 0x64, 0x73]) =
        some (0, false, true, 0x05, [.rxOutcome (.frame .request 0x05 [0x01, 0x0A, 0x03, 0x00, 0x80, 0xFF, 0x00])]) := by decide
theorem test_step_getBrightness :
    seen (lastByte modeA
      [0x46, 0x4C, 0x4D, 0x00, 0x06, 0x00, 0x00, 0x6C, 0x65, 0x64, 0x73]) =
        some (0, false, true, 0x06, [.rxOutcome (.frame .request 0x06 [])]) := by decide
theorem test_step_getEffect :
    seen (lastByte modeA
      [0x46, 0x4C, 0x4D, 0x00, 0x07, 0x00, 0x00, 0x6C, 0x65, 0x64, 0x73]) =
        some (0, false, true, 0x07, [.rxOutcome (.frame .request 0x07 [])]) := by decide
theorem test_step_getOnState :
    seen (lastByte modeA
      [0x46, 0x4C, 0x4D, 0x00, 0x08, 0x00, 0x00, 0x6C, 0x65, 0x64, 0x73]) =
        some (0, false, true, 0x08, [.rxOutcome (.frame .request 0x08 [])]) := by decide
/-- V7. -/
theorem test_step_reqIllegal :
    seen (step (offer (mid modeA [0x46, 0x4C, 0x4D, 0x00, 0x09, 0x00] 0) 0x00 0)) =
      some (0, false, false, 0, errTrace 0x80) := by decide
theorem test_step_respOk :
    seen (lastByte modeA
      [0x4D, 0x4C, 0x52, 0x00, 0x00, 0x05, 0x00, 0x01, 0x5A, 0x00, 0xD8, 0x00, 0x6C, 0x65, 0x64, 0x73]) =
        some (0, false, false, 0,
          [.respDeliver 0x00 [0x01, 0x5A, 0x00, 0xD8, 0x00], .rxOutcome (.frame .response 0x00 [0x01, 0x5A, 0x00, 0xD8, 0x00])]) := by decide
theorem test_step_respPing :
    seen (lastByte modeA
      [0x4D, 0x4C, 0x52, 0x00, 0x01, 0x00, 0x00, 0x6C, 0x65, 0x64, 0x73]) =
        some (0, false, false, 0,
          [.respDeliver 0x01 [], .rxOutcome (.frame .response 0x01 [])]) := by decide
theorem test_step_respInvalidCommand :
    seen (lastByte modeA
      [0x4D, 0x4C, 0x52, 0x00, 0x80, 0x00, 0x00, 0x6C, 0x65, 0x64, 0x73]) =
        some (0, false, false, 0,
          [.respDeliver 0x80 [], .rxOutcome (.frame .response 0x80 [])]) := by decide
theorem test_step_respInvalidHeader :
    seen (lastByte modeA
      [0x4D, 0x4C, 0x52, 0x00, 0x81, 0x00, 0x00, 0x6C, 0x65, 0x64, 0x73]) =
        some (0, false, false, 0,
          [.respDeliver 0x81 [], .rxOutcome (.frame .response 0x81 [])]) := by decide
theorem test_step_respInvalidData :
    seen (lastByte modeA
      [0x4D, 0x4C, 0x52, 0x00, 0x82, 0x00, 0x00, 0x6C, 0x65, 0x64, 0x73]) =
        some (0, false, false, 0,
          [.respDeliver 0x82 [], .rxOutcome (.frame .response 0x82 [])]) := by decide
theorem test_step_respInvalidFooter :
    seen (lastByte modeA
      [0x4D, 0x4C, 0x52, 0x00, 0x83, 0x00, 0x00, 0x6C, 0x65, 0x64, 0x73]) =
        some (0, false, false, 0,
          [.respDeliver 0x83 [], .rxOutcome (.frame .response 0x83 [])]) := by decide
theorem test_step_respNotReady :
    seen (lastByte modeA
      [0x4D, 0x4C, 0x52, 0x00, 0x84, 0x00, 0x00, 0x6C, 0x65, 0x64, 0x73]) =
        some (0, false, false, 0,
          [.respDeliver 0x84 [], .rxOutcome (.frame .response 0x84 [])]) := by decide
theorem test_step_respTimeout :
    seen (lastByte modeA
      [0x4D, 0x4C, 0x52, 0x00, 0x85, 0x00, 0x00, 0x6C, 0x65, 0x64, 0x73]) =
        some (0, false, false, 0,
          [.respDeliver 0x85 [], .rxOutcome (.frame .response 0x85 [])]) := by decide
theorem test_step_respDataTooLarge :
    seen (lastByte modeA
      [0x4D, 0x4C, 0x52, 0x00, 0x86, 0x00, 0x00, 0x6C, 0x65, 0x64, 0x73]) =
        some (0, false, false, 0,
          [.respDeliver 0x86 [], .rxOutcome (.frame .response 0x86 [])]) := by decide
/-- V10. -/
theorem test_step_respUnnamed :
    seen (lastByte modeA [0x4D, 0x4C, 0x52, 0x00, 0xC8, 0x00, 0x00, 0x6C, 0x65, 0x64, 0x73]) =
      some (0, false, false, 0,
        [.respDeliver 0xC8 [], .rxOutcome (.frame .response 0xC8 [])]) := by decide

/-! ### The reassembler (V1 to V18) -/

/-- V1: the mailbox holds the payload. -/
theorem test_v1_mailbox :
    mailbox (lastByte modeA
      [0x46, 0x4C, 0x4D, 0x00, 0x03, 0x02, 0x00, 0x32, 0x03, 0x6C, 0x65, 0x64, 0x73]) =
        some [0x32, 0x03] := by decide
/-- V5 and its contrast: 2049 is refused, 2048 is legal. -/
theorem test_v5_oversize :
    seen (step (offer (mid modeA [0x46, 0x4C, 0x4D, 0x00, 0x03, 0x01] 0) 0x08 0)) =
        some (0, false, false, 0, errTrace 0x86) ∧
      seen (step (offer (mid modeA [0x46, 0x4C, 0x4D, 0x00, 0x03, 0x00] 0) 0x08 0)) =
        some (7, true, false, 0, [.rxOutcome .more]) := ⟨by decide, by decide⟩
/-- V6. -/
theorem test_v6_full_size_field :
    seen (step (offer (mid modeA [0x46, 0x4C, 0x4D, 0x00, 0x03, 0xFF] 0) 0xFF 0)) =
      some (0, false, false, 0, errTrace 0x86) := by decide
/-- V8: the command range is judged before the size. -/
theorem test_v8_command_before_size :
    seen (step (offer (mid modeA [0x46, 0x4C, 0x4D, 0x00, 0x09, 0xB8] 0) 0x0B 0)) =
      some (0, false, false, 0, errTrace 0x80) := by decide
/-- V9: the magic is judged first, and not before the seventh byte. -/
theorem test_v9_bad_magic :
    seen (step (offer (mid modeA [0x00, 0x4D, 0x4C, 0x46, 0xC8, 0xFF] 0) 0xFF 0)) =
        some (0, false, false, 0, errTrace 0x81) ∧
      seen (step (offer (mid modeA [0x47, 0x4C, 0x4D, 0x00, 0x03] 0) 0x02 0)) =
        some (6, false, false, 0, [.rxOutcome .more]) := ⟨by decide, by decide⟩
/-- V12. -/
theorem test_v12_bad_footer :
    seen (lastByte modeA
      [0x46, 0x4C, 0x4D, 0x00, 0x03, 0x02, 0x00, 0x32, 0x03, 0x6C, 0x65, 0x64, 0x74]) =
        some (0, false, false, 0, errTrace 0x83) := by decide
/-- V14: the footer magic inside the payload does not end the frame. -/
theorem test_v14_no_scanning :
    seen (step (offer (mid modeA
      [0x46, 0x4C, 0x4D, 0x00, 0x04, 0x05, 0x00, 0x01, 0x6C, 0x65, 0x64] 0) 0x73 0)) =
        some (12, true, false, 0, [.rxOutcome .more]) := by decide
/-- V15, V16, V17: the gaps 999 and 1000, and across the wrap of the tick counter. -/
theorem test_v15_to_v17_staleness :
    (mid modeA [0x46, 0x4C, 0x4D] 100).stale 1099 = false ∧
      (mid modeA [0x46, 0x4C, 0x4D] 100).stale 1100 = true ∧
      (mid modeA [0x46, 0x4C, 0x4D] 0xFFFFFFF6).stale 5 = false ∧
      (mid modeA [0x46, 0x4C, 0x4D] 0xFFFFFC19).stale 0 = false ∧
      (mid modeA [0x46, 0x4C, 0x4D] 0xFFFFFC18).stale 0 = true ∧
      (mid modeA [0x46, 0x4C, 0x4D] 0xFFFFFC00).stale 0 = true ∧
      (mid modeA [] 10).stale 5000 = false := by decide
/-- V16: the discarded bytes leave the log, the byte starts a frame. -/
theorem test_v16_fresh_frame :
    seen (step (offer (mid modeA [0x46, 0x4C, 0x4D] 100) 0x46 1100)) =
      some (1, false, false, 0, [.log .staleDiscard, .rxOutcome .more]) := by decide
/-- V18: the byte that validates the header refreshes the activity time. -/
theorem test_v18_activity :
    (match step (offer (mid modeA [0x46, 0x4C, 0x4D, 0x00, 0x03, 0x02] 0) 0x00 900) with
      | .next s => decide (s.lastActivity = 900 ∧ s.len = 7 ∧ s.headerValidated = true)
      | _ => false) = true := by decide

/-! ### The checksum (V21 to V27) -/

set_option maxRecDepth 8000 in
/-- The check value of 41_checksum R136 for the ASCII string `123456789`. -/
theorem test_crc_check_value :
    referenceCrc32 [0x31, 0x32, 0x33, 0x34, 0x35, 0x36, 0x37, 0x38, 0x39] = 0xCBF43926#32 := by decide
set_option maxRecDepth 8000 in
/-- V21. -/
theorem test_v21_match :
    seen (lastByte modeE [0x46, 0x4C, 0x4D, 0x00, 0x03, 0x02, 0x00, 0x32, 0x03, 0xA8, 0x1A, 0xBF, 0x89,
      0x6C, 0x65, 0x64, 0x73]) =
        some (0, false, true, 3, [.rxOutcome (.frame .request 3 [0x32, 0x03])]) := by decide
set_option maxRecDepth 8000 in
/-- V22: the error Response carries its own checksum. -/
theorem test_v22_mismatch :
    seen (lastByte modeE [0x46, 0x4C, 0x4D, 0x00, 0x03, 0x02, 0x00, 0x32, 0x03, 0xA9, 0x1A, 0xBF, 0x89,
      0x6C, 0x65, 0x64, 0x73]) =
        some (0, false, false, 0, [.log (.frameError 0x82),
          .txAttempt [0x4D, 0x4C, 0x52, 0x00, 0x82, 0x00, 0x00, 0x95, 0x52, 0x48, 0x60, 0x6C, 0x65,
            0x64, 0x73],
          .rxOutcome (.error 0x82)]) := by decide
set_option maxRecDepth 8000 in
/-- V23. -/
theorem test_v23_ignored :
    seen (lastByte modeI [0x46, 0x4C, 0x4D, 0x00, 0x03, 0x02, 0x00, 0x32, 0x03, 0xA9, 0x1A, 0xBF, 0x89,
      0x6C, 0x65, 0x64, 0x73]) =
        some (0, false, true, 3,
          [.log .checksumIgnored, .rxOutcome (.frame .request 3 [0x32, 0x03])]) := by decide
set_option maxRecDepth 8000 in
/-- V24: the footer is judged before the checksum. -/
theorem test_v24_footer_first :
    traced (lastByte modeE [0x46, 0x4C, 0x4D, 0x00, 0x03, 0x02, 0x00, 0x32, 0x03, 0xA9, 0x1A, 0xBF,
      0x89, 0x6C, 0x65, 0x64, 0x74]) =
        some [.log (.frameError 0x83),
          .txAttempt [0x4D, 0x4C, 0x52, 0x00, 0x83, 0x00, 0x00, 0xA2, 0x38, 0x8A, 0x61, 0x6C, 0x65,
            0x64, 0x73],
          .rxOutcome (.error 0x83)] := by decide
set_option maxRecDepth 8000 in
/-- V26. -/
theorem test_v26_corrupted_payload :
    (traced (lastByte modeE [0x46, 0x4C, 0x4D, 0x00, 0x03, 0x02, 0x00, 0x33, 0x03, 0xA8, 0x1A, 0xBF,
      0x89, 0x6C, 0x65, 0x64, 0x73])).map List.getLast? =
        some (some (.rxOutcome (.error 0x82))) := by decide
set_option maxRecDepth 8000 in
/-- V27: `CHECKSUM_FN(s) = 0`. -/
theorem test_v27_another_function :
    seen (lastByte { modeE with checksumFn := .zero } [0x46, 0x4C, 0x4D, 0x00, 0x03, 0x02, 0x00, 0x32,
      0x03, 0x00, 0x00, 0x00, 0x00, 0x6C, 0x65, 0x64, 0x73]) =
        some (0, false, true, 3, [.rxOutcome (.frame .request 3 [0x32, 0x03])]) ∧
      serializeResponse { modeE with checksumFn := .zero } 0x82 [] =
        [0x4D, 0x4C, 0x52, 0x00, 0x82, 0x00, 0x00, 0x00, 0x00, 0x00, 0x00, 0x6C, 0x65, 0x64, 0x73] := by
  decide
set_option maxRecDepth 8000 in
/-- V70, V71, mode E: the generator of 41_checksum R135. -/
theorem test_mode_e_frames :
    serializeRequest modeE 8 [] =
        [0x46, 0x4C, 0x4D, 0x00, 0x08, 0x00, 0x00, 0x6A, 0x98, 0x5D, 0x6C, 0x6C, 0x65, 0x64, 0x73] ∧
      serializeResponse modeE 0 [0x01, 0x5A, 0x00, 0xD8, 0x00] =
        [0x4D, 0x4C, 0x52, 0x00, 0x00, 0x05, 0x00, 0x01, 0x5A, 0x00, 0xD8, 0x00, 0xEA, 0x0B, 0xA3, 0x36,
          0x6C, 0x65, 0x64, 0x73] := by decide

/-! ### Mailbox, dispatch, configuration (V31 to V41) -/

/-- V31: the second Request is dropped, the first stays. -/
theorem test_v31_drop :
    (match exec (.setBrightness (.complete [0x64, 0x01] none footerMagic)) (pending modeA) with
      | .next s => decide (s.out = [.log .mailboxDrop, .rxOutcome (.frame .request 3 [0x64, 0x01])] ∧
          s.mailboxBytes.toOption = some [0x32, 0x03])
      | _ => false) = true := by decide
/-- V32. -/
theorem test_v32_nothing_pending :
    step { State.created modeA with inputs := [.poll (.err 7)] } = .next (State.created modeA) := by rfl
/-- V33. -/
theorem test_v33_not_ready :
    seen (step { pending modeA with inputs := [.poll (.ok [])] }) =
      some (0, false, false, 3, [.txAttempt (err 0x84)]) := by decide
/-- V34, V35, V36. -/
theorem test_v34_to_v36_handler :
    let s := (pending modeA).setHandler 3 (by decide) ⟨3⟩
    traced (step { s with inputs := [.poll (.ok [])] }) =
        some [.handlerCall ⟨3⟩ 3 [0x32, 0x03], .txAttempt ok0] ∧
      traced (step { s with inputs := [.poll (.err 130)] }) =
        some [.handlerCall ⟨3⟩ 3 [0x32, 0x03], .txAttempt (err 0x82)] ∧
      traced (step { s with inputs := [.poll (.err 77)] }) =
        some [.handlerCall ⟨3⟩ 3 [0x32, 0x03], .txAttempt (err 0x4D)] := by decide
/-- V37. -/
theorem test_v37_truncation :
    mapResult { modeA with respBufCap := 4 } (.ok [1, 2, 3, 4, 5, 6]) = (0, [1, 2, 3, 4]) ∧
      mapResult { modeA with respBufCap := 0 } (.ok [1, 2, 3]) = (0, []) := by decide
/-- V38: the forward rule beats the handler, but not in a build without forwarding. -/
theorem test_v38_forward_first :
    let s (c : Config) := ((pending c).setHandler 3 (by decide) ⟨4⟩).setForward 3 (by decide) ⟨1⟩
    traced (step { s modeA with inputs := [.poll (.ok [])] }) =
        some [.fwdCall ⟨1⟩ 3 [0x32, 0x03], .txAttempt ok0] ∧
      traced (step { s { modeA with forwardEn := false } with inputs := [.poll (.ok [])] }) =
        some [.handlerCall ⟨4⟩ 3 [0x32, 0x03], .txAttempt ok0] := by decide
/-- V39: the forward target times out. -/
theorem test_v39_forward_error :
    traced (step { (pending modeA).setForward 3 (by decide) ⟨1⟩ with inputs := [.poll (.err 133)] }) =
      some [.fwdCall ⟨1⟩ 3 [0x32, 0x03], .txAttempt (err 0x85)] := by decide
/-- V40: last registration wins; ids 9 and 255 are refused. -/
theorem test_v40_registration :
    ((regHandler 3 ⟨9⟩ (regHandler 3 ⟨3⟩ (State.created modeA))).handlerId[3]) = ⟨9⟩ ∧
      regHandler 9 ⟨1⟩ (State.created modeA) = (State.created modeA).emit [.log .cfgRefused] ∧
      regForward 255 ⟨1⟩ (State.created modeA) = (State.created modeA).emit [.log .cfgRefused] ∧
      (regHandler 8 ⟨8⟩ (State.created modeA)).handlerValid.toList =
        [false, false, false, false, false, false, false, false, true] := by decide
/-- V41: a Response does not touch the mailbox. -/
theorem test_v41_mailbox_untouched :
    mailbox (exec (.respTimeout (.complete [] none footerMagic)) (pending modeA)) =
      some [0x32, 0x03] := by decide

/-! ### Sending, reset, FIFO (V50 to V61) -/

/-- V51. -/
theorem test_v51_two_busy :
    writeLoop 10 ok0 6 [.busy, .busy, .ok] =
      ([.txAttempt ok0, .txDelay 10, .txAttempt ok0, .txDelay 10, .txAttempt ok0], []) := by decide
/-- V52, V53: seven answers `Busy` exhaust the budget, six do not. -/
theorem test_v52_v53_budget :
    ((writeLoop 10 ok0 6 (List.replicate 7 .busy)).1.count (.txAttempt ok0) = 7 ∧
        (writeLoop 10 ok0 6 (List.replicate 7 .busy)).1.count (.txDelay 10) = 6 ∧
        (writeLoop 10 ok0 6 (List.replicate 7 .busy)).1.getLast? = some (.log .txGiveUp)) ∧
      (writeLoop 10 ok0 6 (List.replicate 6 .busy ++ [.ok])).1.getLast? = some (.txAttempt ok0) := by
  decide
/-- V54, V54b. -/
theorem test_v54_hard_error :
    writeLoop 10 ok0 6 [.err] = ([.txAttempt ok0, .log .txError], []) ∧
      writeLoop 10 ok0 6 [.busy, .err] =
        ([.txAttempt ok0, .txDelay 10, .txAttempt ok0, .log .txError], []) := by decide
/-- V56: a failed send of an error Response ends the same way. -/
theorem test_v56_failed_error_response :
    seen (step { offer (mid modeA [0x46, 0x4C, 0x4D, 0x00, 0x03, 0x01] 0) 0x08 0 with
      txAnswers := [.err] }) =
        some (0, false, false, 0,
          [.log (.frameError 0x86), .txAttempt (err 0x86), .log .txError, .rxOutcome (.error 0x86)]) := by
  decide
/-- V60. -/
theorem test_v60_reset :
    let s := { (((pending modeA).setHandler 3 (by decide) ⟨3⟩).setForward 4 (by decide) ⟨1⟩) with
      buf := Memory.writeBytes [] 0 [0x46, 0x4C, 0x4D, 0x00, 0x03]
      len := 5
      out := [.rxOutcome .more] }
    step { s with inputs := [.reset] } = .next (State.created modeA) := by rfl
/-- V61: the 65th byte is dropped, the first 64 are queued. -/
theorem test_v61_fifo :
    (pushByte 0xAA { State.created modeA with rxFifo := List.replicate 64 0#8 }).out =
        [.log .rxFifoOverflow] ∧
      (pushByte 0xAA { State.created modeA with rxFifo := List.replicate 63 0#8 }).rxFifo =
        List.replicate 63 0#8 ++ [0xAA] := by decide
theorem test_v61_pop :
    seen (step { State.created modeA with rxFifo := [0x46, 0x4C], inputs := [.pop 7] }) =
      some (1, false, false, 0, [.rxOutcome .more]) := by decide

/-! ### Witnesses: states and operands that meet the hypotheses of each statement together -/

/-- The step gives a next state. -/
def isNext : Result → Bool
  | .next _ => true
  | _ => false

theorem exists_next {r : Result} (h : isNext r = true) : ∃ t, r = .next t := by
  cases r with
  | next t => exact ⟨t, rfl⟩
  | fault f => cases h
  | refused f => cases h

/-- A good frame of mode A with payload `[0x32, 0x03]`. -/
def good : Tail := .complete [0x32, 0x03] none footerMagic

/-- `SB` of 95_test_vectors, mode A. -/
def sb : List Byte := [0x46, 0x4C, 0x4D, 0x00, 0x03, 0x02, 0x00, 0x32, 0x03, 0x6C, 0x65, 0x64, 0x73]

/-- A Request stands in the mailbox while `k` bytes of `SB` have been received, the last at tick 0. -/
def busy (k : Nat) : State :=
  { pending modeA with
    buf := Memory.writeBytes [] 0 (sb.take k)
    len := BitVec.ofNat lenW (sb.take k).length
    headerValidated := decide (headerSize ≤ (sb.take k).length) }

theorem test_witness_EncodedInstructionDecodesToItself :
    (Instr.setBrightness good).wellFormed modeA = true ∧
      (Instr.turnOff (.oversize 2049#16)).wellFormed modeE = true ∧
      (Instr.getInfo (.complete [] (some 0#32) 0#32)).wellFormed modeE = true ∧
      (Instr.reqIllegal 9#8 0#16).wellFormed modeA = true ∧
      (Instr.reqIllegal 255#8 65535#16).wellFormed modeA = true ∧
      (Instr.respPing good).wellFormed modeA = true ∧
      (∀ st ∈ [2#8, 127#8, 135#8, 255#8], (Instr.respUnnamed st good).wellFormed modeA = true) := by
  decide
theorem test_witness_DecodedInstructionIsWellFormed :
    decode modeA (sb ++ [0x11]) = .ok (.setBrightness good, [0x11]) := by rfl
theorem test_witness_DecodedFrameMatchesItsTableRow :
    modeA.wireOrder = .littleEndian ∧
      decode modeA [0x46, 0x4C, 0x4D, 0x00, 0x09, 0x00, 0x00] = .ok (.reqIllegal 9#8 0#16, []) ∧
      Instr.row (.reqIllegal 9#8 0#16) ∉ fullMaskRows ∧
      decode modeA (err 0xC8) = .ok (.respUnnamed 0xC8 (.complete [] none footerMagic), []) ∧
      Instr.row (.respUnnamed 0xC8 (.complete [] none footerMagic)) ∉ fullMaskRows :=
  ⟨rfl, rfl, by decide, rfl, by decide⟩
theorem test_witness_SerializedFrameDecodes :
    (0 ≤ maxDataSize ∧ (Direction.request = .request → (8#8).toNat < cmdMax)) ∧
      (Direction.response = .request → (255#8).toNat < cmdMax) := by decide

/-- Each of the nine Requests is one of the forms. -/
theorem test_witness_request_forms (t : Tail) :
    (.turnOff t, 0#8) ∈ requestForms t ∧ (.turnOn t, 1#8) ∈ requestForms t ∧
      (.getInfo t, 2#8) ∈ requestForms t ∧ (.setBrightness t, 3#8) ∈ requestForms t ∧
      (.setColor t, 4#8) ∈ requestForms t ∧ (.setEffect t, 5#8) ∈ requestForms t ∧
      (.getBrightness t, 6#8) ∈ requestForms t ∧ (.getEffect t, 7#8) ∈ requestForms t ∧
      (.getOnState t, 8#8) ∈ requestForms t := by simp [requestForms]
/-- Each of the nine named Responses is one of the forms. -/
theorem test_witness_response_forms (t : Tail) :
    (.respOk t, 0#8) ∈ responseForms t ∧ (.respPing t, 1#8) ∈ responseForms t ∧
      (.respInvalidCommand t, 128#8) ∈ responseForms t ∧
      (.respInvalidHeader t, 129#8) ∈ responseForms t ∧
      (.respInvalidData t, 130#8) ∈ responseForms t ∧
      (.respInvalidFooter t, 131#8) ∈ responseForms t ∧
      (.respNotReady t, 132#8) ∈ responseForms t ∧ (.respTimeout t, 133#8) ∈ responseForms t ∧
      (.respDataTooLarge t, 134#8) ∈ responseForms t := by simp [responseForms]
/-- The forms of a frame: a Request, a named Response, an unnamed one. -/
theorem test_witness_frame_forms (t : Tail) :
    (.setBrightness t, .request, 3#8) ∈ frameForms 200#8 t ∧
      (.respOk t, .response, 0#8) ∈ frameForms 200#8 t ∧
      (.respUnnamed 200#8 t, .response, 200#8) ∈ frameForms 200#8 t := by
  simp [frameForms, requestForms, responseForms]

theorem test_witness_RequestsFillTheEmptyMailbox :
    (Instr.turnOff good, 0#8) ∈ requestForms good ∧ [0x32#8, 0x03].length ≤ maxDataSize ∧
      ((State.created modeA).cfg.checksumMode ≠ .absent →
        (none : Option Word) = some (checksumOf modeA (coveredBytes modeA reqMagic 0 [0x32, 0x03]))) ∧
      (State.created modeA).mboxFull = false :=
  ⟨by decide, by decide, fun h => absurd rfl h, rfl⟩
set_option maxRecDepth 8000 in
/-- The same in mode E. -/
theorem test_witness_SubmittedPayloadByteByByte :
    (Instr.setBrightness (.complete [0x32, 0x03] (some 0x89BF1AA8#32) footerMagic), 3#8) ∈
        requestForms (.complete [0x32, 0x03] (some 0x89BF1AA8#32) footerMagic) ∧
      some 0x89BF1AA8#32 = some (checksumOf modeE (coveredBytes modeE reqMagic 3 [0x32, 0x03])) ∧
      (State.created modeE).mboxFull = false := by decide
theorem test_witness_RequestsAreDroppedWhenTheMailboxIsFull :
    (Instr.getOnState good, 8#8) ∈ requestForms good ∧ [0x32#8, 0x03].length ≤ maxDataSize ∧
      (pending modeA).cfg.checksumMode = .absent ∧ (pending modeA).mboxFull = true := by decide
theorem test_witness_ResponsesAreDelivered :
    (Instr.respOk good, 0#8) ∈ responseForms good ∧ [0x32#8, 0x03].length ≤ maxDataSize ∧
      (pending modeA).cfg.checksumMode = .absent := by decide
theorem test_witness_OversizeHeaderRaisesDataTooLarge :
    (Instr.setBrightness (.oversize 2049#16), Direction.request, 3#8) ∈
      frameForms 200#8 (.oversize 2049#16) := (test_witness_frame_forms _).1
theorem test_witness_WrongFooterRaisesInvalidFooter :
    (Instr.setBrightness (.complete [0x32, 0x03] none 0x7464656C#32), Direction.request, 3#8) ∈
        frameForms 200#8 (.complete [0x32, 0x03] none 0x7464656C#32) ∧
      [0x32#8, 0x03].length ≤ maxDataSize ∧ 0x7464656C#32 ≠ footerMagic := by decide
set_option maxRecDepth 8000 in
theorem test_witness_ChecksumMismatchRaisesInvalidData :
    (Instr.setBrightness (.complete [0x32, 0x03] (some 0x89BF1AA9#32) footerMagic), Direction.request,
        3#8) ∈ frameForms 200#8 (.complete [0x32, 0x03] (some 0x89BF1AA9#32) footerMagic) ∧
      [0x32#8, 0x03].length ≤ maxDataSize ∧ modeE.checksumMode = .enforced ∧
      some 0x89BF1AA9#32 ≠
        some (checksumOf modeE (coveredBytes modeE Direction.request.magic 3 [0x32, 0x03])) := by
  decide
set_option maxRecDepth 8000 in
theorem test_witness_IgnoredChecksumMismatchIsLoggedAndAccepted :
    (Instr.setBrightness (.complete [0x32, 0x03] (some 0x89BF1AA9#32) footerMagic), Direction.request,
        3#8) ∈ frameForms 200#8 (.complete [0x32, 0x03] (some 0x89BF1AA9#32) footerMagic) ∧
      (Instr.setBrightness (.complete [0x32, 0x03] (some (checksumOf modeI
        (coveredBytes modeI Direction.request.magic 3 [0x32, 0x03]))) footerMagic), Direction.request,
        3#8) ∈ frameForms 200#8 (.complete [0x32, 0x03] (some (checksumOf modeI
        (coveredBytes modeI Direction.request.magic 3 [0x32, 0x03]))) footerMagic) ∧
      [0x32#8, 0x03].length ≤ maxDataSize ∧ modeI.checksumMode = .ignored ∧
      some 0x89BF1AA9#32 ≠
        some (checksumOf modeI (coveredBytes modeI Direction.request.magic 3 [0x32, 0x03])) := by
  decide
theorem test_witness_ResponsesAndIllegalRequestsKeepTheMailbox :
    (((Instr.respOk good).head.1 = .response ∧ ∃ t, exec (.respOk good) (pending modeA) = .next t) ∧
      cmdMax ≤ (Instr.reqIllegal 9#8 0#16).head.2.toNat) ∧
      ∃ t, exec (.reqIllegal 9#8 0#16) (pending modeA) = .next t :=
  ⟨⟨⟨rfl, _, rfl⟩, by decide⟩, _, rfl⟩

/-- A whole frame, and a header that is refused. -/
theorem test_witness_StepRunsTheDecodedFrame :
    ((offer (busy 12) 0x73 5).inputs = [.rxByte 0x73 5] ∧ (offer (busy 12) 0x73 5).stale 5 = false ∧
      (offer (busy 12) 0x73 5).len.toNat < capacity modeA ∧
      (offer (busy 12) 0x73 5).headerValidated = decide (headerSize ≤ (offer (busy 12) 0x73 5).len.toNat) ∧
      (((busy 12).storeByte 0x73).bufBytes 13).toOption = some sb) ∧
      decode modeA sb = .ok (.setBrightness good, []) ∧
      (((mid modeA [0x46, 0x4C, 0x4D, 0x00, 0x09, 0x02] 0).storeByte 0x00).bufBytes 7).toOption =
        some [0x46, 0x4C, 0x4D, 0x00, 0x09, 0x02, 0x00] ∧
      decode modeA [0x46, 0x4C, 0x4D, 0x00, 0x09, 0x02, 0x00] = .ok (.reqIllegal 9#8 2#16, []) :=
  ⟨by decide, rfl, by decide, rfl⟩
theorem test_witness_ReceiveFifoQueuesAndDelivers :
    (List.replicate 63 0#8).length < modeA.rxFifoDepth ∧
      modeA.rxFifoDepth ≤ (List.replicate 64 0#8).length ∧
      (({ State.created modeA with inputs := [.pop 5], rxFifo := [0x46] } : State).rxFifo = [0x46] ∧
        (State.created modeA).rxFifo = []) := by decide
theorem test_witness_HeaderBytesAreOnlyStored :
    (∀ k ∈ [0, 5], (offer (busy k) 0x00 5).inputs = [.rxByte 0x00 5] ∧
      (offer (busy k) 0x00 5).stale 5 = false ∧ (busy k).len.toNat < 6 ∧
      (busy k).headerValidated = false) := by decide
theorem test_witness_LegalHeaderIsValidated :
    (busy 6).stale 5 = false ∧ (busy 6).len = 6 ∧ (busy 6).headerValidated = false ∧
      (busy 6).buf.readBytes 0 6 = some (sb.take 6) ∧
      judgeHeader modeA (sb.take 6 ++ [0x00]) = .legal .request 3#8 2#16 := by decide
theorem test_witness_BadMagicRaisesInvalidHeader :
    let s := mid modeA [0x47, 0x4C, 0x4D, 0x00, 0x03, 0x02] 0
    s.stale 5 = false ∧ s.len = 6 ∧ s.headerValidated = false ∧
      s.buf.readBytes 0 6 = some [0x47, 0x4C, 0x4D, 0x00, 0x03, 0x02] ∧
      word32 modeA.wireOrder [0x47, 0x4C, 0x4D, 0x00, 0x03, 0x02] ≠ reqMagic ∧
      word32 modeA.wireOrder [0x47, 0x4C, 0x4D, 0x00, 0x03, 0x02] ≠ respMagic := by decide
/-- The first body byte and the last but one. -/
theorem test_witness_BodyBytesAreOnlyStored :
    ∀ k ∈ [7, 11], (busy k).stale 5 = false ∧ 7 ≤ (busy k).len.toNat ∧ (busy k).headerValidated = true ∧
      (busy k).header = some (.legal .request 3#8 2#16) ∧
      (busy k).len.toNat + 1 < frameLength modeA (2#16).toNat := by decide
theorem test_witness_ByteIntoAnEmptyBufferStartsAFrame :
    (offer (busy 0) 0x99 5).inputs = [.rxByte 0x99 5] ∧ (busy 0).len = 0 ∧
      (busy 0).headerValidated = false := by decide
/-- The gap is exactly 1000 ms, in the header and in the body. -/
theorem test_witness_StaleByteStartsAFreshFrame :
    ∀ k ∈ [1, 12], (busy k).len ≠ 0 ∧ 1000 ≤ elapsed modeA 1000 (busy k).lastActivity := by decide
theorem test_witness_ElapsedIsTheTrueGap :
    (7 ≤ 7 ∧ 7 - 7 < 2 ^ modeA.tickW) ∧ (7 ≤ 7 + 4294967295 ∧ 7 + 4294967295 - 7 < 2 ^ modeA.tickW) := by
  decide
theorem test_witness_OneOutcomePerReceivedByte :
    (offer (busy 12) 0x73 5).inputs = [.rxByte 0x73 5] ∧ ∃ t, step (offer (busy 12) 0x73 5) = .next t :=
  ⟨rfl, exists_next (by decide)⟩

/-- The invariant holds with a Request pending and 0, 3, 6, 7 or 12 bytes of a frame received. -/
theorem test_witness_invariant_empty : (busy 0).Inv := by constructor <;> decide
theorem test_witness_invariant_header : (busy 3).Inv := by constructor <;> decide
theorem test_witness_invariant_six : (busy 6).Inv := by constructor <;> decide
theorem test_witness_invariant_seven : (busy 7).Inv := by constructor <;> decide
theorem test_witness_invariant_body : (busy 12).Inv := by constructor <;> decide
theorem test_witness_invariant_offer {s : State} (h : s.Inv) (b : Byte) (t : Nat) : (offer s b t).Inv :=
  ⟨h.1, h.2, h.3, h.4, h.5, h.6, h.7, h.8, h.9, h.10, h.11, h.12⟩

/-- Each clause: stale, empty, header below and at six bytes, body. -/
theorem test_witness_PhaseTransitions :
    ((offer (busy 3) 0x00 1000).Inv ∧ (busy 3).stale 1000 = true ∧
        ∃ t, step (offer (busy 3) 0x00 1000) = .next t) ∧
      ((offer (busy 0) 0x46 5).Inv ∧ (busy 0).phase = .empty ∧
        ∃ t, step (offer (busy 0) 0x46 5) = .next t) ∧
      ((offer (busy 3) 0x00 5).Inv ∧ (busy 3).stale 5 = false ∧ (busy 3).phase = .header ∧
        (busy 3).len.toNat < 6 ∧ ∃ t, step (offer (busy 3) 0x00 5) = .next t) ∧
      ((offer (busy 6) 0x00 5).Inv ∧ (busy 6).stale 5 = false ∧ (busy 6).phase = .header ∧
        (busy 6).len = 6 ∧ ∃ t, step (offer (busy 6) 0x00 5) = .next t) ∧
      ((offer (busy 12) 0x73 5).Inv ∧ (busy 12).stale 5 = false ∧ (busy 12).phase = .body ∧
        ∃ t, step (offer (busy 12) 0x73 5) = .next t) :=
  ⟨⟨test_witness_invariant_offer test_witness_invariant_header _ _, by decide,
      exists_next (by decide)⟩,
    ⟨test_witness_invariant_offer test_witness_invariant_empty _ _, by decide,
      exists_next (by decide)⟩,
    ⟨test_witness_invariant_offer test_witness_invariant_header _ _, by decide, by decide, by decide,
      exists_next (by decide)⟩,
    ⟨test_witness_invariant_offer test_witness_invariant_six _ _, by decide, by decide, by decide,
      exists_next (by decide)⟩,
    ⟨test_witness_invariant_offer test_witness_invariant_body _ _, by decide, by decide,
      exists_next (by decide)⟩⟩
theorem test_witness_OverflowGuardIsNeverTaken : (busy 12).Inv := test_witness_invariant_body
theorem test_witness_SerializedFrameIsReceivedIntact :
    let s := { State.created modeA with inputs := receiveEvents sb (List.replicate 13 5) }
    s.len = 0 ∧ s.headerValidated = false ∧ [0x32#8, 0x03].length ≤ maxDataSize ∧
      (Direction.request = .request → (3#8).toNat < cmdMax) ∧
      (List.replicate 13 5).length = (serialize modeA Direction.request.magic 3#8 [0x32, 0x03]).length ∧
      (∀ k (h : k + 1 < (List.replicate 13 5).length),
        elapsed modeA (List.replicate 13 5)[k + 1] (List.replicate 13 5)[k] < staleTimeout) ∧
      s.inputs = receiveEvents (serialize modeA Direction.request.magic 3#8 [0x32, 0x03])
        (List.replicate 13 5) ++ [] := by
  refine ⟨rfl, rfl, by decide, by decide, by decide, fun k h => ?_, by rfl⟩
  simp only [List.getElem_replicate]
  decide
theorem test_witness_FreshFrameAfterAStalePartialOne :
    let s := { busy 3 with inputs := receiveEvents sb (1000 :: List.replicate 12 1000) }
    s.len ≠ 0 ∧ staleTimeout ≤ elapsed modeA 1000 s.lastActivity ∧
      [0x32#8, 0x03].length ≤ maxDataSize ∧ (Direction.request = .request → (3#8).toNat < cmdMax) ∧
      (1000 :: List.replicate 12 1000).length =
        (serialize modeA Direction.request.magic 3#8 [0x32, 0x03]).length ∧
      (∀ k (h : k + 1 < (List.replicate 13 1000).length),
        elapsed modeA (List.replicate 13 1000)[k + 1] (List.replicate 13 1000)[k] < staleTimeout) ∧
      s.inputs = receiveEvents (serialize modeA Direction.request.magic 3#8 [0x32, 0x03])
        (1000 :: List.replicate 12 1000) ++ [] := by
  refine ⟨by decide, by decide, by decide, by decide, by decide, fun k h => ?_, by rfl⟩
  simp only [List.getElem_replicate]
  decide

theorem test_witness_PollWithNothingPendingDoesNothing :
    ({ State.created modeA with inputs := [.poll (.ok [])] } : State).inputs = [.poll (.ok [])] ∧
      (State.created modeA).mboxFull = false := by decide
theorem test_witness_PollForwardsBeforeLookingForAHandler :
    let s := (pending modeA).setForward 3 (by decide) ⟨1⟩
    s.mboxFull = true ∧ s.mailboxBytes.toOption = some [0x32, 0x03] ∧ s.cfg.forwardEn = true ∧
      s.fwdValid[(3#8 : Byte).toNat] = true ∧ s.mboxCmd = 3#8 := by decide
/-- A handler with no forward rule, and with one in a build without forwarding. -/
theorem test_witness_PollCallsTheHandler :
    (let s := (pending modeA).setHandler 3 (by decide) ⟨3⟩;
      s.mboxFull = true ∧ s.mailboxBytes.toOption = some [0x32, 0x03] ∧ s.fwdValid[3] = false ∧
        s.handlerValid[3] = true ∧ s.mboxCmd = 3#8) ∧
      (let s := ((pending { modeA with forwardEn := false }).setHandler 3 (by decide) ⟨3⟩).setForward 3
        (by decide) ⟨1⟩;
      s.mboxFull = true ∧ s.cfg.forwardEn = false ∧ s.fwdValid[3] = true ∧
        s.handlerValid[3] = true) := by decide
theorem test_witness_PollAnswersNotReady :
    (pending modeA).mboxFull = true ∧ (pending modeA).mailboxBytes.toOption = some [0x32, 0x03] ∧
      (pending modeA).fwdValid[3] = false ∧ (pending modeA).handlerValid[3] = false ∧
      (pending modeA).mboxCmd = 3#8 := by decide
/-- The ids 0 and 8 are registered, 9 and 255 are refused. -/
theorem test_witness_RegisterHandlerWritesItsEntry :
    ({ busy 5 with inputs := [.regHandler 8 ⟨1⟩] } : State).inputs = [.regHandler 8 ⟨1⟩] ∧
      (0#8 : Byte).toNat < cmdMax ∧ (8#8 : Byte).toNat < cmdMax ∧
      cmdMax ≤ (9#8 : Byte).toNat ∧ cmdMax ≤ (255#8 : Byte).toNat := by decide
theorem test_witness_RegisterForwardWritesItsEntry :
    ({ busy 5 with inputs := [.regForward 8 ⟨1⟩] } : State).inputs = [.regForward 8 ⟨1⟩] ∧
      (0#8 : Byte).toNat < cmdMax ∧ (8#8 : Byte).toNat < cmdMax ∧
      cmdMax ≤ (9#8 : Byte).toNat ∧ cmdMax ≤ (255#8 : Byte).toNat := by decide
theorem test_witness_OutOfRangeRegistrationRefusedNoneRemoved :
    (cmdMax ≤ (9#8 : Byte).toNat ∧ (∃ hid, Event.regHandler 9 ⟨1⟩ = .regHandler 9 hid) ∧
      ∃ target, Event.regForward 9 ⟨1⟩ = .regForward 9 target) ∧
      (let s := (pending modeA).setHandler 3 (by decide) ⟨3⟩ |>.setForward 3 (by decide) ⟨1⟩
       let s := { s with inputs := [.poll (.ok [])] }
       s.handlerValid[3] = true ∧ s.fwdValid[3] = true ∧ (∃ t, step s = .next t) ∧
         ∀ rest, s.inputs ≠ .reset :: rest) :=
  ⟨⟨by decide, ⟨_, rfl⟩, ⟨_, rfl⟩⟩, by decide, by decide, ⟨_, rfl⟩, nofun⟩
theorem test_witness_SendEndsAtTheFirstAnswerThatIsNotBusy : 0 ≤ 6 ∧ 6 ≤ 6 := by decide
theorem test_witness_OnlyResponsesAreSent :
    let s := { pending modeA with inputs := [.poll (.ok [])] }
    ∃ t, step s = .next t ∧ OutEvent.txAttempt (err 0x84) ∈ t.out ∧ ∀ rest, s.inputs ≠ .reset :: rest := by
  refine ⟨_, rfl, ?_, nofun⟩
  decide
theorem test_witness_RequestReachesItsHandler :
    let s := (State.created modeA).setHandler 3 (by decide) ⟨3⟩
    (Instr.setBrightness good, 3#8) ∈ requestForms good ∧ [0x32#8, 0x03].length ≤ maxDataSize ∧
      s.cfg.checksumMode = .absent ∧ s.mboxFull = false ∧ s.fwdValid[(3#8 : Byte).toNat] = false ∧
      s.handlerValid[(3#8 : Byte).toNat] = true := by decide
theorem test_witness_ResetEventDiscardsEverything :
    ({ busy 5 with inputs := [.reset] } : State).inputs = [.reset] := by decide
theorem test_witness_IdleKeepsAllState : (busy 12).inputs = [] := rfl
theorem test_witness_StepKeepsTheInvariant :
    (offer (busy 12) 0x73 5).Inv ∧ ∃ t, step (offer (busy 12) 0x73 5) = .next t :=
  ⟨test_witness_invariant_offer test_witness_invariant_body _ _, exists_next (by decide)⟩
theorem test_witness_ExecKeepsTheInvariant :
    (busy 12).Inv ∧ ∃ t, exec (.setBrightness good) (busy 12) = .next t :=
  ⟨test_witness_invariant_body, _, rfl⟩
theorem test_witness_StepNeverStops : (busy 12).Inv := test_witness_invariant_body
/-- An empty buffer and an empty mailbox, with other values in every unspecified element. -/
theorem test_witness_UnspecifiedValuesAreNeverRead :
    let s := offer (State.created modeA) 0x46 5
    let t := { s with
      buf := [(3, 0x11)]
      lastActivity := 77
      mboxCmd := 200#8
      mboxLen := 3000
      handlerId := Vector.replicate cmdMax ⟨7⟩
      fwdTarget := Vector.replicate cmdMax ⟨7⟩ };
    s.Inv ∧ s.Agrees t ∧ ∃ s', step s = .next s' :=
  ⟨by constructor <;> decide, by constructor <;> decide, exists_next (by decide)⟩
theorem test_witness_OnlyReceptionMovesTheReassembler :
    ({ busy 5 with inputs := [.poll (.ok [])] } : State).inputs = [.poll (.ok [])] ∧
      (∃ t, step { busy 5 with inputs := [.poll (.ok [])] } = .next t) ∧
      (∀ b tick, Event.poll (.ok []) ≠ .rxByte b tick) ∧ (∀ tick, Event.poll (.ok []) ≠ .pop tick) ∧
      Event.poll (.ok []) ≠ .reset :=
  ⟨rfl, exists_next (by decide), nofun, nofun, nofun⟩
theorem test_witness_OnlyRegistrationWritesTheTables :
    (∃ t, step { busy 5 with inputs := [.regHandler 3 ⟨3⟩] } = .next t) ∧
      Event.regHandler 3 ⟨3⟩ ≠ .reset ∧ (∀ cmd target, Event.regHandler 3 ⟨3⟩ ≠ .regForward cmd target) ∧
      (∃ t, step { busy 5 with inputs := [.regForward 3 ⟨3⟩] } = .next t) ∧
      Event.regForward 3 ⟨3⟩ ≠ .reset ∧ ∀ cmd hid, Event.regForward 3 ⟨3⟩ ≠ .regHandler cmd hid :=
  ⟨exists_next (by decide), nofun, nofun, exists_next (by decide), nofun, nofun⟩
theorem test_witness_PendingRequestIsNeverAltered :
    (offer (busy 12) 0x73 5).inputs = [.rxByte 0x73 5] ∧
      (∃ t, step (offer (busy 12) 0x73 5) = .next t) ∧ (busy 12).mboxFull = true ∧
      (∀ answer, Event.rxByte 0x73 5 ≠ .poll answer) ∧ Event.rxByte 0x73 5 ≠ .reset :=
  ⟨rfl, exists_next (by decide), rfl, nofun, nofun⟩
/-- The last byte the buffer has room for. -/
theorem test_witness_FillPositionNeverWraps :
    let s := { State.created modeA with len := 2058 }
    ∃ u, appendByte 0x73 s = some u := ⟨_, rfl⟩
theorem test_witness_DerivedSizes :
    modeA.checksumMode = .absent ∧ modeE.checksumMode ≠ .absent := by decide
theorem test_witness_ConfigurationIsFixed : ∃ t, step (offer (busy 12) 0x73 5) = .next t :=
  exists_next (by decide)

end Sys2Proof.Tests
end

/-! SUPPORT. The derived sizes of 00_scope R8, read off the checksum mode of the build. -/

namespace Sys2Proof.Proofs

open Sys2Proof Sys2Proof.Machine

/-- The sizes that depend on the build, when frames carry no checksum field. -/
theorem sizes_of_absent {c : Config} (h : c.checksumMode = .absent) :
    checksumSize c = 0 ∧ footerSize c = 4 ∧ capacity c = 2059 := by
  obtain ⟨hPresent, -, -⟩ | ⟨-, hChecksum, hFooter⟩ := footerSize_cases c
  · exact absurd h ((hasChecksum_iff c).mp hPresent)
  · exact ⟨hChecksum, hFooter, by rw [capacity_eq, hFooter]⟩

/-- The sizes that depend on the build, when frames carry a checksum field. -/
theorem sizes_of_ne_absent {c : Config} (h : c.checksumMode ≠ .absent) :
    checksumSize c = 4 ∧ footerSize c = 8 ∧ capacity c = 2063 := by
  have hPresent := (hasChecksum_iff c).mpr h
  obtain ⟨-, hChecksum, hFooter⟩ | ⟨hMissing, -, -⟩ := footerSize_cases c
  · exact ⟨hChecksum, hFooter, by rw [capacity_eq, hFooter]⟩
  · simp [hPresent] at hMissing

/-- One bit fewer than `LEN_W` would not hold `CAPACITY`; with `capacity_lt`, `LEN_W` is exact. -/
theorem two_pow_pred_lenW_le_capacity (c : Config) : 2 ^ (lenW - 1) ≤ capacity c := by
  calc 2 ^ (lenW - 1) ≤ 2055 + 4 := by decide
    _ ≤ 2055 + footerSize c := Nat.add_le_add_left (footerSize_bounds c).1 _
    _ = capacity c := (capacity_eq c).symm

/-- Settles O58: the fixed sizes compute, the others follow the two cases of the checksum mode. -/
theorem derivedSizes : Obligations.DerivedSizes :=
  ⟨headerSize_eq, rfl, rfl, fun c =>
    ⟨sizes_of_absent, sizes_of_ne_absent, two_pow_pred_lenW_le_capacity c, capacity_lt c⟩⟩

end Sys2Proof.Proofs

/-! SUPPORT. What every event keeps: the configuration, the dispatch tables and the fill position
(10_state R24, R30 to R32). -/

namespace Sys2Proof.Proofs

open Sys2Proof Sys2Proof.Machine

/-! ### One inversion lemma per event whose branches the laws give one by one -/

theorem appendByte_eq_some {s u : State} {b : Byte} :
    appendByte b s = some u ↔ s.len.toNat < capacity s.cfg ∧ u = s.storeByte b := by
  unfold appendByte
  split <;> rename_i hRoom
  · simp only [reduceCtorEq, false_iff, not_and]
    omega
  · simp only [Option.some.injEq, eq_comm (a := u)]
    exact ⟨fun h => ⟨by omega, h⟩, fun h => h.2⟩

theorem pushByte_cases (b : Byte) (s : State) :
    (s.rxFifo.length < s.cfg.rxFifoDepth ∧ pushByte b s = s.withFifo (s.rxFifo ++ [b])) ∨
      pushByte b s = s.emit [.log .rxFifoOverflow] := by
  obtain hRoom | hFull := Nat.lt_or_ge s.rxFifo.length s.cfg.rxFifoDepth
  · exact .inl ⟨hRoom, pushByte_of_room b hRoom⟩
  · exact .inr (pushByte_of_full b hFull)

theorem popByte_cases {t : Nat} {s s' : State} (h : popByte t s = .next s') :
    s' = s ∨ ∃ b q, s.rxFifo = b :: q ∧ rxByte b t (s.withFifo q) = .next s' := by
  cases hq : s.rxFifo with
  | nil =>
    rw [popByte_of_empty t hq] at h
    exact .inl (Host.Outcome.next.inj h).symm
  | cons b q =>
    rw [popByte_of_cons t hq] at h
    exact .inr ⟨b, q, rfl, h⟩

theorem regHandler_cases (cmd : Byte) (hid : HandlerId) (s : State) :
    (∃ h, regHandler cmd hid s = s.setHandler cmd.toNat h hid) ∨
      regHandler cmd hid s = s.emit [.log .cfgRefused] := by
  obtain h | h := Nat.lt_or_ge cmd.toNat cmdMax
  · exact .inl ⟨h, regHandler_of_lt hid h⟩
  · exact .inr (regHandler_of_ge hid h)

theorem regForward_cases (cmd : Byte) (target : CtxId) (s : State) :
    (∃ h, regForward cmd target s = s.setForward cmd.toNat h target) ∨
      regForward cmd target s = s.emit [.log .cfgRefused] := by
  obtain h | h := Nat.lt_or_ge cmd.toNat cmdMax
  · exact .inl ⟨h, regForward_of_lt target h⟩
  · exact .inr (regForward_of_ge target h)

/-! ### What traffic leaves alone -/

/-- The elements set up once and only read by traffic: the configuration and both dispatch tables
(10_state R30 to R32). -/
structure SameSetup (s t : State) : Prop where
  cfg : t.cfg = s.cfg
  handlerValid : t.handlerValid = s.handlerValid
  handlerId : t.handlerId = s.handlerId
  fwdValid : t.fwdValid = s.fwdValid
  fwdTarget : t.fwdTarget = s.fwdTarget

theorem SameSetup.trans {s t u : State} (h : SameSetup s t) (h' : SameSetup t u) : SameSetup s u :=
  ⟨h'.cfg.trans h.cfg, h'.handlerValid.trans h.handlerValid, h'.handlerId.trans h.handlerId,
    h'.fwdValid.trans h.fwdValid, h'.fwdTarget.trans h.fwdTarget⟩

/-- What a frame leaves of the elements outside the mailbox and the trace. The cells of `buf` are
`exec_buf`'s, the mailbox is `exec_mailbox`'s. -/
structure FrameEnds (s t : State) : Prop where
  setup : SameSetup s t
  len : t.len = 0
  headerValidated : t.headerValidated = false
  lastActivity : t.lastActivity = s.lastActivity
  rxFifo : t.rxFifo = s.rxFifo

theorem raiseError_frameEnds (e : FrameError) (s : State) : FrameEnds s (raiseError e s) :=
  ⟨⟨rfl, rfl, rfl, rfl, rfl⟩, rfl, rfl, rfl, rfl⟩

theorem acceptFrame_frameEnds (dir : Direction) (selector : Byte) (payload : List Byte)
    (s : State) : FrameEnds s (acceptFrame dir selector payload s) := by
  cases dir with
  | request =>
    rw [acceptFrame_request]
    split <;> exact ⟨⟨rfl, rfl, rfl, rfl, rfl⟩, rfl, rfl, rfl, rfl⟩
  | response =>
    rw [acceptFrame_response]
    exact ⟨⟨rfl, rfl, rfl, rfl, rfl⟩, rfl, rfl, rfl, rfl⟩

/-- Every frame ends with an empty reassembler, whether it was accepted or raised an error. -/
theorem exec_frameEnds {i : Instr} {s t : State} (h : exec i s = .next t) : FrameEnds s t := by
  obtain hExec | ⟨dir, selector, tail, -, hExec⟩ := exec_cases i s <;> rw [hExec] at h <;>
    obtain rfl := Host.Outcome.next.inj h
  · exact raiseError_frameEnds _ s
  · obtain ⟨e, hRun⟩ | ⟨payload, -, hRun | hRun⟩ := runFrame_cases dir selector tail s <;> rw [hRun]
    · exact raiseError_frameEnds e s
    · exact acceptFrame_frameEnds dir selector payload s
    · obtain ⟨⟨hCfg, hHV, hHI, hFV, hFT⟩, hLen, hVal, hLast, hFifo⟩ :=
        acceptFrame_frameEnds dir selector payload (s.emit [.log .checksumIgnored])
      exact ⟨⟨hCfg, hHV, hHI, hFV, hFT⟩, hLen, hVal, hLast, hFifo⟩

theorem staleCheck_setup (t : Nat) (s : State) : SameSetup s (staleCheck t s) := by
  obtain h | h := staleCheck_cases t s <;> rw [h] <;> exact ⟨rfl, rfl, rfl, rfl, rfl⟩

theorem rxByte_setup {b : Byte} {t : Nat} {s s' : State} (h : rxByte b t s = .next s') :
    SameSetup s s' := by
  refine (staleCheck_setup t s).trans ?_
  obtain rfl | rfl | ⟨s₂, hStored, hEnd⟩ := rxByte_cases h
  · exact (raiseError_frameEnds _ _).setup
  · exact ⟨rfl, rfl, rfl, rfl, rfl⟩
  · have hStore : SameSetup (staleCheck t s) s₂ := by
      obtain rfl | rfl := hStored <;> exact ⟨rfl, rfl, rfl, rfl, rfl⟩
    obtain rfl | ⟨i, hExec⟩ := hEnd
    · exact hStore.trans ⟨rfl, rfl, rfl, rfl, rfl⟩
    · exact hStore.trans (exec_frameEnds hExec).setup

theorem poll_setup {answer : CallAnswer} {s s' : State} (h : poll answer s = .next s') :
    SameSetup s s' := by
  obtain ⟨-, rfl⟩ | ⟨payload, hCmd, -, -, rfl⟩ := poll_cases h <;> exact ⟨rfl, rfl, rfl, rfl, rfl⟩

theorem pushByte_setup (b : Byte) (s : State) : SameSetup s (pushByte b s) := by
  obtain ⟨-, h⟩ | h := pushByte_cases b s <;> rw [h] <;> exact ⟨rfl, rfl, rfl, rfl, rfl⟩

theorem popByte_setup {t : Nat} {s s' : State} (h : popByte t s = .next s') : SameSetup s s' := by
  obtain rfl | ⟨b, q, -, hByte⟩ := popByte_cases h
  · exact ⟨rfl, rfl, rfl, rfl, rfl⟩
  · obtain ⟨hCfg, hHV, hHI, hFV, hFT⟩ := rxByte_setup hByte
    exact ⟨hCfg, hHV, hHI, hFV, hFT⟩

/-- Only a `RESET` and the two registrations are no traffic. -/
theorem handle_setup_cases {e : Event} {s t : State} (h : handle e s = .next t) :
    (e = .reset ∧ t = resetContext s) ∨
      (∃ cmd hid, e = .regHandler cmd hid ∧ t = regHandler cmd hid s) ∨
      (∃ cmd target, e = .regForward cmd target ∧ t = regForward cmd target s) ∨
      SameSetup s t := by
  cases e with
  | reset => exact .inl ⟨rfl, (Host.Outcome.next.inj h).symm⟩
  | regHandler cmd hid => exact .inr (.inl ⟨cmd, hid, rfl, (Host.Outcome.next.inj h).symm⟩)
  | regForward cmd target =>
    exact .inr (.inr (.inl ⟨cmd, target, rfl, (Host.Outcome.next.inj h).symm⟩))
  | rxByte b tick => exact .inr (.inr (.inr (rxByte_setup h)))
  | poll answer => exact .inr (.inr (.inr (poll_setup h)))
  | push b =>
    obtain rfl := Host.Outcome.next.inj h
    exact .inr (.inr (.inr (pushByte_setup b s)))
  | pop tick => exact .inr (.inr (.inr (popByte_setup h)))

/-- A handler registration keeps the configuration and the forward table. -/
theorem regHandler_keeps (cmd : Byte) (hid : HandlerId) (s : State) :
    (regHandler cmd hid s).cfg = s.cfg ∧ (regHandler cmd hid s).fwdValid = s.fwdValid ∧
      (regHandler cmd hid s).fwdTarget = s.fwdTarget := by
  obtain ⟨hCmd, h⟩ | h := regHandler_cases cmd hid s <;> rw [h] <;> exact ⟨rfl, rfl, rfl⟩

/-- A forward registration keeps the configuration and the handler table. -/
theorem regForward_keeps (cmd : Byte) (target : CtxId) (s : State) :
    (regForward cmd target s).cfg = s.cfg ∧ (regForward cmd target s).handlerValid = s.handlerValid ∧
      (regForward cmd target s).handlerId = s.handlerId := by
  obtain ⟨hCmd, h⟩ | h := regForward_cases cmd target s <;> rw [h] <;> exact ⟨rfl, rfl, rfl⟩

theorem handle_cfg {e : Event} {s t : State} (h : handle e s = .next t) : t.cfg = s.cfg := by
  obtain ⟨-, rfl⟩ | ⟨cmd, hid, -, rfl⟩ | ⟨cmd, target, -, rfl⟩ | hSetup := handle_setup_cases h
  · rfl
  · exact (regHandler_keeps cmd hid s).1
  · exact (regForward_keeps cmd target s).1
  · exact hSetup.cfg

/-! ### The reassembler outside reception -/

/-- `t` has the reassembler of `s`, every cell of `buf` included. -/
structure SameReassembler (s t : State) : Prop where
  len : t.len = s.len
  headerValidated : t.headerValidated = s.headerValidated
  lastActivity : t.lastActivity = s.lastActivity
  buf : t.buf = s.buf

theorem regHandler_reassembler (cmd : Byte) (hid : HandlerId) (s : State) :
    SameReassembler s (regHandler cmd hid s) := by
  obtain ⟨hCmd, h⟩ | h := regHandler_cases cmd hid s <;> rw [h] <;> exact ⟨rfl, rfl, rfl, rfl⟩

theorem regForward_reassembler (cmd : Byte) (target : CtxId) (s : State) :
    SameReassembler s (regForward cmd target s) := by
  obtain ⟨hCmd, h⟩ | h := regForward_cases cmd target s <;> rw [h] <;> exact ⟨rfl, rfl, rfl, rfl⟩

theorem poll_reassembler {answer : CallAnswer} {s s' : State} (h : poll answer s = .next s') :
    SameReassembler s s' := by
  obtain ⟨-, rfl⟩ | ⟨payload, hCmd, -, -, rfl⟩ := poll_cases h <;> exact ⟨rfl, rfl, rfl, rfl⟩

theorem pushByte_reassembler (b : Byte) (s : State) : SameReassembler s (pushByte b s) := by
  obtain ⟨-, h⟩ | h := pushByte_cases b s <;> rw [h] <;> exact ⟨rfl, rfl, rfl, rfl⟩

theorem handle_reassembler {e : Event} {s t : State} (h : handle e s = .next t)
    (hByte : ∀ b tick, e ≠ .rxByte b tick) (hPop : ∀ tick, e ≠ .pop tick) (hReset : e ≠ .reset) :
    SameReassembler s t := by
  cases e with
  | reset => exact absurd rfl hReset
  | rxByte b tick => exact absurd rfl (hByte b tick)
  | pop tick => exact absurd rfl (hPop tick)
  | regHandler cmd hid =>
    obtain rfl := Host.Outcome.next.inj h
    exact regHandler_reassembler cmd hid s
  | regForward cmd target =>
    obtain rfl := Host.Outcome.next.inj h
    exact regForward_reassembler cmd target s
  | poll answer => exact poll_reassembler h
  | push b =>
    obtain rfl := Host.Outcome.next.inj h
    exact pushByte_reassembler b s

/-! ### The statements -/

/-- Settles O54, by the case split on the event of `handle_reassembler`. -/
theorem onlyReceptionMovesTheReassembler : Obligations.OnlyReceptionMovesTheReassembler := by
  intro s t e rest hInputs h hByte hPop hReset
  rw [step_of_inputs hInputs] at h
  obtain ⟨hLen, hVal, hLast, hBuf⟩ := handle_reassembler h hByte hPop hReset
  exact ⟨hLen, hVal, hLast, fun a => by rw [hBuf, withInputs_buf]⟩

/-- Settles O55: an event is a registration, which keeps the other table, or traffic, which keeps
both. -/
theorem onlyRegistrationWritesTheTables : Obligations.OnlyRegistrationWritesTheTables := by
  intro s t e rest hInputs h hReset
  rw [step_of_inputs hInputs] at h
  obtain ⟨he, -⟩ | ⟨cmd, hid, he, rfl⟩ | ⟨cmd, target, he, rfl⟩ | hSetup := handle_setup_cases h
  · exact absurd he hReset
  · exact ⟨fun hNot => absurd he (hNot cmd hid), fun _ => (regHandler_keeps cmd hid _).2⟩
  · exact ⟨fun _ => (regForward_keeps cmd target _).2, fun hNot => absurd he (hNot cmd target)⟩
  · exact ⟨fun _ => ⟨hSetup.handlerValid, hSetup.handlerId⟩,
      fun _ => ⟨hSetup.fwdValid, hSetup.fwdTarget⟩⟩

/-- Settles O57: an idle step changes nothing, and `handle_cfg` covers every event. -/
theorem configurationIsFixed : Obligations.ConfigurationIsFixed := by
  intro s t h
  cases hInputs : s.inputs with
  | nil =>
    rw [step_idle hInputs] at h
    rw [Host.Outcome.next.inj h]
  | cons e rest =>
    rw [step_of_inputs hInputs] at h
    exact (handle_cfg h).trans (withInputs_cfg s rest)

/-- Settles O59: `AppendByte` takes a byte only below `CAPACITY`, where `len + 1` does not wrap. -/
theorem fillPositionNeverWraps : Obligations.FillPositionNeverWraps := by
  intro s u b h
  obtain ⟨hRoom, rfl⟩ := appendByte_eq_some.mp h
  have hLen := storeByte_len_toNat b hRoom
  exact ⟨hLen, by omega⟩

end Sys2Proof.Proofs

/-! SUPPORT. The invariant of 10_state R34: it holds after reset, and every event keeps it. -/

namespace Sys2Proof.Proofs

open Sys2Proof Sys2Proof.Machine

/-! ### The state after reset -/

theorem created_tables (c : Config) {i : Nat} (h : i < cmdMax) :
    (State.created c).handlerValid[i] = false ∧ (State.created c).fwdValid[i] = false :=
  ⟨Vector.getElem_replicate h, Vector.getElem_replicate h⟩

/-- A new context meets the invariant: nothing is written, received or pending. -/
theorem created_inv {c : Config} (h : c.wf) : (State.created c).Inv where
  cfg := h
  bufCanonical := List.Pairwise.nil
  bufRange := nofun
  bufWritten := nofun
  lenBound := Nat.zero_le _
  validated := rfl
  header := nofun
  mboxCanonical := List.Pairwise.nil
  mboxRange := nofun
  mailbox := nofun
  tick := Nat.two_pow_pos _
  fifo := Nat.zero_le _

theorem default_wf : Config.default.wf := by decide

/-- Settles O46: the scalars are the fields of `State.created`, the tables are replicated. -/
theorem resetStateHasTheStatedValues : Obligations.ResetStateHasTheStatedValues :=
  ⟨rfl, rfl, rfl, fun _ h => created_tables Config.default h, rfl⟩

/-- Settles O49, as the case of the default configuration of `created_inv`. -/
theorem resetMeetsTheInvariant : Obligations.ResetMeetsTheInvariant := created_inv default_wf

/-! ### Register updates that keep the invariant -/

theorem withInputs_inv {s : State} (h : s.Inv) (es : List Event) : (s.withInputs es).Inv := { h with }

theorem emit_inv {s : State} (h : s.Inv) (es : List OutEvent) : (s.emit es).Inv := { h with }

theorem withFifo_inv {s : State} (h : s.Inv) {q : List Byte} (hq : q.length ≤ s.cfg.rxFifoDepth) :
    (s.withFifo q).Inv := { h with fifo := hq }

theorem clearBuffer_inv {s : State} (h : s.Inv) : s.clearBuffer.Inv :=
  { h with bufWritten := nofun, lenBound := Nat.zero_le _, validated := rfl, header := nofun }

theorem moreData_inv {s : State} (h : s.Inv) (t : Nat) : (moreData t s).Inv :=
  { h with tick := Nat.mod_lt _ (Nat.two_pow_pos _) }

theorem staleCheck_inv {s : State} (h : s.Inv) (t : Nat) : (staleCheck t s).Inv := by
  obtain hEq | hEq := staleCheck_cases t s <;> rw [hEq]
  · exact h
  · exact emit_inv (clearBuffer_inv h) _

theorem resetContext_inv {s : State} (h : s.Inv) : (resetContext s).Inv :=
  { created_inv h.cfg with fifo := h.fifo }

theorem regHandler_inv {s : State} (h : s.Inv) (cmd : Byte) (hid : HandlerId) :
    (regHandler cmd hid s).Inv := by
  obtain ⟨hCmd, hEq⟩ | hEq := regHandler_cases cmd hid s <;> rw [hEq] <;> exact { h with }

theorem regForward_inv {s : State} (h : s.Inv) (cmd : Byte) (target : CtxId) :
    (regForward cmd target s).Inv := by
  obtain ⟨hCmd, hEq⟩ | hEq := regForward_cases cmd target s <;> rw [hEq] <;> exact { h with }

theorem pushByte_inv {s : State} (h : s.Inv) (b : Byte) : (pushByte b s).Inv := by
  obtain ⟨hRoom, hEq⟩ | hEq := pushByte_cases b s <;> rw [hEq]
  · exact withFifo_inv h (by simpa using hRoom)
  · exact emit_inv h _

theorem poll_inv {answer : CallAnswer} {s s' : State} (h : s.Inv) (hPoll : poll answer s = .next s') :
    s'.Inv := by
  obtain ⟨-, rfl⟩ | ⟨payload, hCmd, -, -, rfl⟩ := poll_cases hPoll
  · exact h
  · exact { h with mailbox := nofun }

/-! ### A frame -/

theorem raiseError_inv {s : State} (h : s.clearBuffer.Inv) (e : FrameError) :
    (raiseError e s).Inv := { h with }

/-- Every frame ends with an empty buffer, so it restores the clauses on the header whether or not
they held before: `s` has to meet the others only. -/
theorem exec_inv {i : Instr} {s t : State} (h : s.clearBuffer.Inv) (hExec : exec i s = .next t) :
    t.Inv := by
  obtain ⟨hSetup, hLen, hVal, hLast, hFifo⟩ := exec_frameEnds hExec
  have hMailbox : t.mboxData.wf ∧ (∀ cell ∈ t.mboxData, cell.1 < maxDataSize) ∧
      (t.mboxFull = true → t.mboxCmd.toNat < cmdMax ∧ t.mboxLen.toNat ≤ maxDataSize ∧
        ∀ a < t.mboxLen.toNat, (t.mboxData.read a).isSome) := by
    obtain ⟨hFull, hCmd, hCount, hData⟩ | ⟨-, -, cmd, payload, hLt, hFits, hCmd, hCount, hData⟩ :=
      exec_mailbox hExec
    · rw [hFull, hCmd, hCount, hData]
      exact ⟨h.mboxCanonical, h.mboxRange, h.mailbox⟩
    · rw [hCmd, hCount, hData, count_toNat hFits]
      refine ⟨Memory.wf_writeBytes 0 payload h.mboxCanonical,
        Memory.range_writeBytes h.mboxRange (by omega), fun _ => ⟨hLt, hFits, fun a ha => ?_⟩⟩
      rw [Memory.read_writeBytes, if_pos (by omega)]
      simpa using ha
  obtain ⟨hCanonical, hRange, hPending⟩ := hMailbox
  exact {
    cfg := hSetup.cfg ▸ h.cfg
    bufCanonical := exec_buf hExec ▸ h.bufCanonical
    bufRange := by rw [exec_buf hExec, hSetup.cfg]; exact h.bufRange
    bufWritten := by rw [hLen]; nofun
    lenBound := by rw [hLen]; exact Nat.zero_le _
    validated := by rw [hVal, hLen]; rfl
    header := by rw [hVal]; nofun
    mboxCanonical := hCanonical
    mboxRange := hRange
    mailbox := hPending
    tick := by rw [hLast, hSetup.cfg]; exact h.tick
    fifo := by rw [hFifo, hSetup.cfg]; exact h.fifo }

/-- Settles O51, by `exec_inv`. -/
theorem execKeepsTheInvariant : Obligations.ExecKeepsTheInvariant :=
  fun _ _ _ h hExec => exec_inv (clearBuffer_inv h) hExec

/-! ### A received byte -/

/-- The invariant but for its clauses on the header (R34 (b) to (d)): what holds between the store of a
byte and the tests that follow it in the same event. -/
structure InvButHeader (s : State) : Prop where
  cleared : s.clearBuffer.Inv
  bufWritten : ∀ i < s.len.toNat, (s.buf.read i).isSome
  lenBound : s.len.toNat ≤ capacity s.cfg

theorem inv_iff {s : State} :
    s.Inv ↔ InvButHeader s ∧ s.headerValidated = decide (headerSize ≤ s.len.toNat) ∧
      (s.headerValidated = true → s.headerFits = true) :=
  ⟨fun h => ⟨⟨clearBuffer_inv h, h.bufWritten, h.lenBound⟩, h.validated, h.header⟩,
    fun ⟨⟨hCleared, hWritten, hBound⟩, hVal, hHeader⟩ =>
      { hCleared with
        bufWritten := hWritten
        lenBound := hBound
        validated := hVal
        header := hHeader }⟩

theorem storeByte_invButHeader {s : State} (h : s.Inv) (b : Byte)
    (hRoom : s.len.toNat < capacity s.cfg) : InvButHeader (s.storeByte b) where
  cleared := { clearBuffer_inv h with
    bufCanonical := Memory.wf_write _ b h.bufCanonical
    bufRange := Memory.range_write h.bufRange hRoom
    bufWritten := nofun
    header := nofun }
  bufWritten i hi := by
    rw [storeByte_len_toNat b hRoom] at hi
    rw [storeByte_buf, Memory.read_write]
    split
    · rfl
    · exact h.bufWritten i (by omega)
  lenBound := by
    rw [storeByte_len_toNat b hRoom]
    exact hRoom

theorem header_eq_some {s : State} {v : HeaderVerdict} :
    s.header = some v ↔ ∃ hdr, s.bufBytes headerSize = .ok hdr ∧ judgeHeader s.cfg hdr = v := by
  simp only [State.header, Option.map_eq_some_iff, bufBytes_ok]

theorem headerFits_iff {s : State} :
    s.headerFits = true ↔ ∃ dir selector size, s.header = some (.legal dir selector size) ∧
      s.len.toNat < frameLength s.cfg size.toNat := by
  unfold State.headerFits
  split
  · rename_i dir selector size hHeader
    simp [hHeader]
  · rename_i hNot
    simp only [Bool.false_eq_true, false_iff, not_exists, not_and]
    exact fun dir selector size hHeader => absurd hHeader (hNot dir selector size)

/-- A byte stored behind the header does not change the verdict on it. -/
theorem storeByte_header {s : State} (b : Byte) (h : headerSize ≤ s.len.toNat) :
    (s.storeByte b).header = s.header := by
  unfold State.header
  rw [storeByte_cfg, storeByte_buf, Memory.readBytes_congr fun i hi =>
    Memory.read_write_other s.buf b (by omega)]

/-- With the header written, its seven bytes can be read. -/
theorem bufBytes_header {s : State} (h : InvButHeader s) (hLen : headerSize ≤ s.len.toNat) :
    ∃ hdr, s.bufBytes headerSize = .ok hdr := by
  obtain ⟨hdr, hRead, -⟩ := Memory.readBytes_isSome (m := s.buf) (a := 0) (n := headerSize)
    fun i hi => by
      rw [Nat.zero_add]
      exact h.bufWritten i (by omega)
  exact ⟨hdr, bufBytes_ok.mpr hRead⟩

/-- Over a legal header, completion either waits, the frame being incomplete, or runs a frame. -/
theorem completionCheck_inv {t : Nat} {s s' : State} {dir : Direction} {selector : Byte} {size : Half}
    (h : InvButHeader s) (hVal : s.headerValidated = true) (hLen : headerSize ≤ s.len.toNat)
    (hHeader : s.header = some (.legal dir selector size))
    (hNext : completionCheck t s = .next s') : s'.Inv := by
  obtain ⟨hdr, hBytes, hJudge⟩ := header_eq_some.mp hHeader
  obtain ⟨-, -, hSize, -, -⟩ := judgeHeader_legal hJudge
  rw [completionCheck_of_header hVal hBytes hSize] at hNext
  split at hNext
  · rename_i hShort
    obtain rfl := Host.Outcome.next.inj hNext
    refine moreData_inv (inv_iff.mpr ⟨h, ?_, fun _ => ?_⟩) t
    · rw [hVal, decide_eq_true hLen]
    · exact headerFits_iff.mpr ⟨dir, selector, size, hHeader, hShort⟩
  · split at hNext
    · cases hNext
    · split at hNext
      · cases hNext
      · exact exec_inv h.cleared hNext

/-- The tests after a store, by the phase: below seven bytes nothing is judged; at the seventh the
header is; behind a validated header completion is tested. -/
theorem headerCheck_inv {t : Nat} {s s' : State} (h : InvButHeader s)
    (hHeader : s.headerValidated = true → headerSize ≤ s.len.toNat ∧
      ∃ dir selector size, s.header = some (.legal dir selector size))
    (hNext : headerCheck t s = .next s') : s'.Inv := by
  cases hVal : s.headerValidated with
  | true =>
    obtain ⟨hLen, dir, selector, size, hLegal⟩ := hHeader hVal
    rw [headerCheck_validated hVal] at hNext
    exact completionCheck_inv h hVal hLen hLegal hNext
  | false =>
    obtain hShort | hLen := Nat.lt_or_ge s.len.toNat headerSize
    · rw [headerCheck_short hVal hShort] at hNext
      obtain rfl := Host.Outcome.next.inj hNext
      refine moreData_inv (inv_iff.mpr ⟨h, ?_, by rw [hVal]; nofun⟩) t
      rw [hVal, decide_eq_false (Nat.not_le.mpr hShort)]
    · obtain ⟨hdr, hBytes⟩ := bufBytes_header h hLen
      rw [headerCheck_seven hVal hLen hBytes] at hNext
      split at hNext
      · obtain rfl := Host.Outcome.next.inj hNext
        exact raiseError_inv h.cleared _
      · exact exec_inv h.cleared hNext
      · exact exec_inv h.cleared hNext
      · rename_i dir selector size hJudge
        exact completionCheck_inv (s := s.validateHeader) ⟨h.cleared, h.bufWritten, h.lenBound⟩ rfl
          hLen (header_eq_some.mpr ⟨hdr, hBytes, hJudge⟩) hNext

theorem rxByte_inv {b : Byte} {t : Nat} {s s' : State} (h : s.Inv) (hNext : rxByte b t s = .next s') :
    s'.Inv := by
  have hFresh := staleCheck_inv h t
  unfold rxByte at hNext
  split at hNext
  · obtain rfl := Host.Outcome.next.inj hNext
    exact raiseError_inv (clearBuffer_inv hFresh) _
  · rename_i u hAppend
    obtain ⟨hRoom, rfl⟩ := appendByte_eq_some.mp hAppend
    refine headerCheck_inv (storeByte_invButHeader hFresh b hRoom) (fun hVal => ?_) hNext
    rw [storeByte_headerValidated] at hVal
    have hLen : headerSize ≤ (staleCheck t s).len.toNat := by
      simpa [hVal] using hFresh.validated
    obtain ⟨dir, selector, size, hLegal, -⟩ := headerFits_iff.mp (hFresh.header hVal)
    refine ⟨?_, dir, selector, size, (storeByte_header b hLen).trans hLegal⟩
    rw [storeByte_len_toNat b hRoom]
    omega

theorem popByte_inv {t : Nat} {s s' : State} (h : s.Inv) (hNext : popByte t s = .next s') : s'.Inv := by
  obtain rfl | ⟨b, q, hFifo, hByte⟩ := popByte_cases hNext
  · exact h
  · have hDepth := h.fifo
    rw [hFifo, List.length_cons] at hDepth
    exact rxByte_inv (withFifo_inv h (by omega)) hByte

/-! ### Every event -/

theorem handle_inv {e : Event} {s t : State} (h : s.Inv) (hNext : handle e s = .next t) : t.Inv := by
  cases e with
  | reset =>
    obtain rfl := Host.Outcome.next.inj hNext
    exact resetContext_inv h
  | regHandler cmd hid =>
    obtain rfl := Host.Outcome.next.inj hNext
    exact regHandler_inv h cmd hid
  | regForward cmd target =>
    obtain rfl := Host.Outcome.next.inj hNext
    exact regForward_inv h cmd target
  | rxByte b tick => exact rxByte_inv h hNext
  | poll answer => exact poll_inv h hNext
  | push b =>
    obtain rfl := Host.Outcome.next.inj hNext
    exact pushByte_inv h b
  | pop tick => exact popByte_inv h hNext

/-- Settles O50: an idle step changes nothing, and `handle_inv` covers every event. -/
theorem stepKeepsTheInvariant : Obligations.StepKeepsTheInvariant := by
  intro s t h hNext
  cases hInputs : s.inputs with
  | nil =>
    rw [step_idle hInputs] at hNext
    exact Host.Outcome.next.inj hNext ▸ h
  | cons e rest =>
    rw [step_of_inputs hInputs] at hNext
    exact handle_inv (withInputs_inv h rest) hNext

end Sys2Proof.Proofs

/-! SUPPORT. The receive FIFO between the transport and the block (20_memory R61). -/

namespace Sys2Proof.Proofs

open Sys2Proof Sys2Proof.Machine

section

variable {s : State} {b : Byte} {t : Nat} {rest : List Event}

theorem step_push (hInputs : s.inputs = .push b :: rest) :
    step s = .next (pushByte b (s.withInputs rest)) := step_of_inputs hInputs

theorem step_pop (hInputs : s.inputs = .pop t :: rest) :
    step s = popByte t (s.withInputs rest) := step_of_inputs hInputs

theorem step_rxByte (hInputs : s.inputs = .rxByte b t :: rest) :
    step s = rxByte b t (s.withInputs rest) := step_of_inputs hInputs

/-- A `POP` that finds a byte steps as the reception of that byte offered in its place. -/
theorem step_pop_of_cons {q : List Byte} (hInputs : s.inputs = .pop t :: rest)
    (hFifo : s.rxFifo = b :: q) :
    step s = step ((s.withInputs (.rxByte b t :: rest)).withFifo q) :=
  calc step s
    _ = popByte t (s.withInputs rest) := step_pop hInputs
    _ = rxByte b t ((s.withInputs rest).withFifo q) := popByte_of_cons t hFifo
    _ = step ((s.withInputs (.rxByte b t :: rest)).withFifo q) :=
      (step_rxByte (s := (s.withInputs (.rxByte b t :: rest)).withFifo q) rfl).symm

end

/-- Settles O21: a `PUSH` by whether the queue has room, a `POP` by whether it holds a byte. -/
theorem receiveFifoQueuesAndDelivers : Obligations.ReceiveFifoQueuesAndDelivers := by
  refine ⟨fun s b rest hInputs hRoom => ?room, fun s b rest hInputs hFull => ?full,
    fun s b q t rest hInputs hFifo => ?cons, fun s t rest hInputs hEmpty => ?empty⟩
  case room =>
    rw [step_push hInputs, pushByte_of_room b (s := s.withInputs rest) hRoom]
    rfl
  case full =>
    rw [step_push hInputs, pushByte_of_full b (s := s.withInputs rest) hFull]
    rfl
  case cons => exact step_pop_of_cons hInputs hFifo
  case empty =>
    rw [step_pop hInputs, popByte_of_empty t (s := s.withInputs rest) hEmpty]
    rfl

end Sys2Proof.Proofs

/-! SUPPORT. The codec: an encoded frame decodes to itself, and a decoded frame encodes back to its
bytes (30_encoding R71 to R75). -/

namespace Sys2Proof.Proofs

open Sys2Proof Sys2Proof.Machine

/-! ### Well-formed instructions -/

theorem responseInstr_of_unnamed {status : Byte} (t : Tail) (h : statusNamed status = false) :
    responseInstr status t = .respUnnamed status t := by
  have ne_of_named {named : Byte} (hNamed : statusNamed named = true) : status ≠ named := by
    rintro rfl
    simp [h] at hNamed
  simp [responseInstr, ne_of_named, statusNamed]

/-- A well-formed instruction is `REQ.illegal`, or the one that its own head and operands name. -/
theorem wellFormed_cases {c : Config} {i : Instr} (h : i.wellFormed c = true) :
    (∃ selector size, i = .reqIllegal selector size ∧ cmdMax ≤ selector.toNat) ∨
      ∃ dir selector t, i = instrOf dir selector t ∧ (dir = .request → selector.toNat < cmdMax) ∧
        t.fits c = true := by
  refine Or.imp_right (fun hNamed => ⟨i.head.1, i.head.2, i.tail, hNamed⟩) ?_
  cases i with
  | reqIllegal selector size => exact .inl ⟨selector, size, rfl, of_decide_eq_true h⟩
  | turnOff | turnOn | getInfo | setBrightness | setColor | setEffect | getBrightness | getEffect
  | getOnState => exact .inr ⟨rfl, fun _ => of_decide_eq_true rfl, h⟩
  | respOk | respPing | respInvalidCommand | respInvalidHeader | respInvalidData | respInvalidFooter
  | respNotReady | respTimeout | respDataTooLarge => exact .inr ⟨rfl, nofun, h⟩
  | respUnnamed status t =>
    obtain ⟨hStatus, hFits⟩ := (Bool.and_eq_true _ _).mp h
    exact .inr ⟨(responseInstr_of_unnamed t (by simpa using hStatus)).symm, nofun, hFits⟩

theorem fits_complete {c : Config} {payload : List Byte} {checksum : Option Word} {footer : Word} :
    (Tail.complete payload checksum footer).fits c = true ↔
      payload.length ≤ maxDataSize ∧ checksum.isSome = c.hasChecksum := by
  simp [Tail.fits]

theorem fits_oversize {c : Config} {size : Half} :
    (Tail.oversize size).fits c = true ↔ maxDataSize < size.toNat := decide_eq_true_iff

/-! ### Decoding encoded bytes -/

theorem drop_headerBytes (c : Config) (magic : Word) (selector : Byte) (size : Half)
    (rest : List Byte) : (headerBytes c magic selector size ++ rest).drop 7 = rest :=
  List.drop_left' (headerBytes_length c magic selector size)

theorem decode_illegalHeader (c : Config) {selector : Byte} (size : Half) (rest : List Byte)
    (h : cmdMax ≤ selector.toNat) :
    decode c (headerBytes c reqMagic selector size ++ rest) =
      .ok (.reqIllegal selector size, rest) := by
  rw [decode_of_badCommand (by simp) (by rw [judgeHeader_request, if_pos h]), drop_headerBytes]

theorem judgeHeader_oversize (c : Config) {dir : Direction} {selector : Byte} {size : Half}
    (rest : List Byte) (hs : dir = .request → selector.toNat < cmdMax)
    (hz : maxDataSize < size.toNat) :
    judgeHeader c (headerBytes c dir.magic selector size ++ rest) =
      .tooLarge dir selector size := by
  cases dir with
  | request =>
    rw [Direction.magic, judgeHeader_request, if_neg (Nat.not_le.mpr (hs rfl)), judgeSize,
      if_pos hz]
  | response => rw [Direction.magic, judgeHeader_response, judgeSize, if_pos hz]

theorem decode_oversizeHeader (c : Config) {dir : Direction} {selector : Byte} {size : Half}
    (rest : List Byte) (hs : dir = .request → selector.toNat < cmdMax)
    (hz : maxDataSize < size.toNat) :
    decode c (headerBytes c dir.magic selector size ++ rest) =
      .ok (instrOf dir selector (.oversize size), rest) := by
  rw [decode_of_tooLarge (by simp) (judgeHeader_oversize c rest hs hz), drop_headerBytes]

theorem frame_length (c : Config) (magic : Word) (selector : Byte) (payload : List Byte)
    {checksum : Option Word} (footer : Word) (hc : checksum.isSome = c.hasChecksum) :
    (coveredBytes c magic selector payload ++ footerBytes c checksum footer).length =
      frameLength c payload.length := by
  rw [List.length_append, coveredBytes_length, footerBytes_length, hc]
  rfl

/-- A complete frame, whatever its checksum and footer say, decodes to its operands. -/
theorem decode_completeFrame (c : Config) {dir : Direction} {selector : Byte} {payload : List Byte}
    {checksum : Option Word} (footer : Word) (rest : List Byte)
    (hs : dir = .request → selector.toNat < cmdMax) (hp : payload.length ≤ maxDataSize)
    (hc : checksum.isSome = c.hasChecksum) :
    decode c (coveredBytes c dir.magic selector payload ++ footerBytes c checksum footer ++ rest) =
      .ok (instrOf dir selector (.complete payload checksum footer), rest) := by
  have hSize := sizeField_toNat hp
  have hLength := frame_length c dir.magic selector payload footer hc
  have hJudge : judgeHeader c
      (coveredBytes c dir.magic selector payload ++ footerBytes c checksum footer ++ rest) =
        .legal dir selector (BitVec.ofNat 16 payload.length) := by
    simp only [coveredBytes, List.append_assoc]
    exact judgeHeader_headerBytes c _ hs (hSize.symm ▸ hp)
  rw [decode_of_legal hJudge (by rw [hSize, List.length_append, hLength]; omega), hSize,
    completeTail_bytes c _ _ _ _ _ _ hc, List.drop_left' hLength]

/-- Settles O1: the three shapes a well-formed instruction has on the wire are an illegal header, an
oversize header and a complete frame. -/
theorem encodedInstructionDecodesToItself : Obligations.EncodedInstructionDecodesToItself := by
  intro c i rest h
  obtain ⟨selector, size, rfl, hIllegal⟩ | ⟨dir, selector, t, rfl, hLegal, hFits⟩ :=
    wellFormed_cases h
  · exact decode_illegalHeader c size rest hIllegal
  · rw [encode_instrOf c dir selector t hLegal]
    cases t with
    | complete payload checksum footer =>
      obtain ⟨hPayload, hChecksum⟩ := fits_complete.mp hFits
      exact decode_completeFrame c footer rest hLegal hPayload hChecksum
    | oversize size => exact decode_oversizeHeader c rest hLegal (fits_oversize.mp hFits)

/-- Settles O6: a serialised frame is a complete frame with the generated checksum. -/
theorem serializedFrameDecodes : Obligations.SerializedFrameDecodes :=
  fun c _ _ _ rest hPayload hLegal =>
    decode_completeFrame c footerMagic rest hLegal hPayload (generatedChecksum_isSome c _)

/-! ### Encoding decoded bytes -/

/-- The fields behind a payload, read as the decoder reads them (20_memory R51), encode back. -/
theorem footerBytes_append_drop (c : Config) {bytes : List Byte} (h : footerSize c ≤ bytes.length) :
    footerBytes c (if c.hasChecksum then some (word32 c.wireOrder bytes) else none)
        (word32 c.wireOrder (bytes.drop (checksumSize c))) ++ bytes.drop (footerSize c) =
      bytes := by
  obtain ⟨hPresent, hChecksum, hFooter⟩ | ⟨hAbsent, hChecksum, hFooter⟩ := footerSize_cases c
  · have hTail : bytes32 c.wireOrder (word32 c.wireOrder (bytes.drop 4)) ++ bytes.drop 8 =
        bytes.drop 4 := by
      simpa using bytes32_append_drop c.wireOrder (bytes.drop 4) (by simp; omega)
    simp only [hPresent, hChecksum, hFooter, footerBytes, if_true, List.append_assoc, hTail]
    exact bytes32_append_drop c.wireOrder bytes (by omega)
  · simp only [hAbsent, hChecksum, hFooter, footerBytes, List.drop_zero]
    exact bytes32_append_drop c.wireOrder bytes (by omega)

theorem payload_length {c : Config} {n : Nat} {bytes : List Byte}
    (h : frameLength c n ≤ bytes.length) : ((bytes.drop 7).take n).length = n := by
  rw [frameLength_eq] at h
  exact List.length_take_of_le (by rw [List.length_drop]; omega)

theorem completeTail_fits {c : Config} {n : Nat} {bytes : List Byte} (hBound : n ≤ maxDataSize)
    (hLength : frameLength c n ≤ bytes.length) : (completeTail c n bytes).fits c = true := by
  refine fits_complete.mpr ⟨(payload_length hLength).trans_le hBound, ?_⟩
  cases c.hasChecksum <;> rfl

/-- Behind a legal header, the operands the decoder reads encode back to the bytes it took. -/
theorem encode_completeTail {c : Config} {bytes : List Byte} {dir : Direction} {selector : Byte}
    {size : Half} (hJudge : judgeHeader c bytes = .legal dir selector size)
    (hLength : frameLength c size.toNat ≤ bytes.length) :
    encode c (instrOf dir selector (completeTail c size.toNat bytes)) ++
      bytes.drop (frameLength c size.toNat) = bytes := by
  obtain ⟨hMagic, hSelector, hSize, -, hLegal⟩ := judgeHeader_legal hJudge
  have hPayload := payload_length hLength
  rw [frameLength_eq] at hLength
  have hFooter := footerBytes_append_drop c (bytes := bytes.drop (7 + size.toNat))
    (by rw [List.length_drop]; omega)
  simp only [List.drop_drop] at hFooter
  simp only [encode_instrOf _ _ _ _ hLegal, completeTail, coveredBytes, headerSize_eq, hPayload,
    BitVec.ofNat_toNat, BitVec.setWidth_eq, List.append_assoc, frameLength_eq]
  rw [hFooter, ← List.drop_drop, List.take_append_drop]
  exact headerBytes_append_drop (by omega) hMagic hSelector hSize

/-- Settles O2, by the three answers of the decoder. -/
theorem decodedInstructionIsWellFormed : Obligations.DecodedInstructionIsWellFormed := by
  intro c bytes rest i h
  obtain ⟨h7, ⟨selector, size, hJudge, rfl, rfl⟩ | ⟨dir, selector, size, hJudge, rfl, rfl⟩ |
    ⟨dir, selector, size, hJudge, hLength, rfl, rfl⟩⟩ := decode_cases h
  · obtain ⟨hMagic, hSelector, hSize, hIllegal⟩ := judgeHeader_badCommand hJudge
    exact ⟨decide_eq_true hIllegal, headerBytes_append_drop h7 hMagic hSelector hSize⟩
  · obtain ⟨hMagic, hSelector, hSize, hOver, hLegal⟩ := judgeHeader_tooLarge hJudge
    refine ⟨wellFormed_instrOf c dir selector _ hLegal (fits_oversize.mpr hOver), ?_⟩
    rw [encode_instrOf c dir selector _ hLegal]
    exact headerBytes_append_drop h7 hMagic hSelector hSize
  · obtain ⟨-, -, -, hBound, hLegal⟩ := judgeHeader_legal hJudge
    exact ⟨wellFormed_instrOf c dir selector _ hLegal (completeTail_fits hBound hLength),
      encode_completeTail hJudge hLength⟩

/-! ### The layout of a serialised frame (30_encoding R91) -/

/-- The bytes after a payload whose checksum was generated. -/
theorem footerBytes_generated (c : Config) (covered : List Byte) (footer : Word) :
    footerBytes c (generatedChecksum c covered) footer =
      (if c.checksumMode = .absent then [] else bytes32 c.wireOrder (checksumOf c covered)) ++
        bytes32 c.wireOrder footer := by
  by_cases hAbsent : c.checksumMode = .absent
  · simp [footerBytes, generatedChecksum, Config.hasChecksum, hAbsent]
  · simp [footerBytes, generatedChecksum, (hasChecksum_iff c).mpr hAbsent, hAbsent]

/-- Settles O5, by `footerBytes_generated` and the length of a serialised frame. -/
theorem serializedFrameLayout : Obligations.SerializedFrameLayout := by
  intro c magic selector payload
  refine ⟨?_, serialize_length c magic selector payload⟩
  rw [List.append_assoc, ← footerBytes_generated]
  rfl

end Sys2Proof.Proofs

/-! SUPPORT. The opcode table: the first five bytes of a frame decide its row (30_encoding R81). -/

namespace Sys2Proof.Proofs

open Sys2Proof Sys2Proof.Machine

/-- The key of a direction and a selector: the magic in the low four bytes, the selector above. -/
def headKey (dir : Direction) (selector : Byte) : Nat := dir.magic.toNat + 2 ^ 32 * selector.toNat

theorem headKey_lt (dir : Direction) (selector : Byte) : headKey dir selector < 2 ^ 40 := by
  have hMagic := dir.magic.isLt
  have hSelector := selector.isLt
  unfold headKey
  omega

theorem magic_inj {dir dir' : Direction} (h : dir.magic = dir'.magic) : dir = dir' := by
  cases dir <;> cases dir'
  case request.response => exact absurd h reqMagic_ne_respMagic
  case response.request => exact absurd h.symm reqMagic_ne_respMagic
  all_goals rfl

theorem headKey_inj {dir dir' : Direction} {selector selector' : Byte} :
    headKey dir selector = headKey dir' selector' ↔ dir = dir' ∧ selector = selector' := by
  refine ⟨fun h => ?_, fun ⟨hd, hs⟩ => hd ▸ hs ▸ rfl⟩
  have hMagic := dir.magic.isLt
  have hMagic' := dir'.magic.isLt
  simp only [headKey] at h
  have hSelector : selector = selector' := BitVec.eq_of_toNat_eq (by omega)
  have hDir : dir.magic = dir'.magic := BitVec.eq_of_toNat_eq (by omega)
  exact ⟨magic_inj hDir, hSelector⟩

/-- The decoder's key of a frame is that of its head. -/
theorem tableKey_encode_append {c : Config} (h : c.wireOrder = .littleEndian) (i : Instr)
    (rest : List Byte) : tableKey (encode c i ++ rest) = headKey i.head.1 i.head.2 := by
  unfold encode
  split
  · simp only [coveredBytes, List.append_assoc]
    exact Laws.EncodingMatchesRow.tableKey_header h _ _ _ _
  · exact Laws.EncodingMatchesRow.tableKey_header h _ _ _ _

/-- A full-mask row covers exactly the key it names. -/
theorem fullMask_covers_iff {value key : Nat} (h : key < 2 ^ 40) :
    (TableRow.mk 0xFFFFFFFFFF value).covers key = true ↔ key = value := by
  have hMask : key &&& 0xFFFFFFFFFF = key := Nat.and_two_pow_sub_one_of_lt_two_pow (n := 40) h
  simp [TableRow.covers, hMask]

/-- An instruction's row covers the key of its own head. -/
theorem row_covers_headKey (i : Instr) : i.row.covers (headKey i.head.1 i.head.2) = true := by
  cases i with
  | reqIllegal selector => exact Laws.EncodingMatchesRow.catchAll_request selector
  | respUnnamed status => exact Laws.EncodingMatchesRow.catchAll_response status
  | _ =>
    exact (fullMask_covers_iff (headKey_lt _ _)).mpr
      (by simp [headKey, Direction.magic, Instr.head, reqMagic, respMagic])

/-- The heads that have a full-mask row: the nine command ids and the nine named status codes. -/
def namedHeads : List (Direction × Byte) :=
  [0#8, 1#8, 2#8, 3#8, 4#8, 5#8, 6#8, 7#8, 8#8].map (Direction.request, ·) ++
    [0#8, 1#8, 128#8, 129#8, 130#8, 131#8, 132#8, 133#8, 134#8].map (Direction.response, ·)

theorem fullMaskRows_eq :
    fullMaskRows = namedHeads.map fun head => ⟨0xFFFFFFFFFF, headKey head.1 head.2⟩ := rfl

/-- A full-mask row that covers the key of a head is the row of that head. -/
theorem mem_namedHeads_of_covers {dir : Direction} {selector : Byte} {r : TableRow}
    (hRow : r ∈ fullMaskRows) (h : r.covers (headKey dir selector) = true) :
    (dir, selector) ∈ namedHeads := by
  rw [fullMaskRows_eq, List.mem_map] at hRow
  obtain ⟨⟨dir', selector'⟩, hMem, rfl⟩ := hRow
  obtain ⟨rfl, rfl⟩ := headKey_inj.mp ((fullMask_covers_iff (headKey_lt _ _)).mp h)
  exact hMem

/-- A named head is neither an illegal command nor an unnamed status. -/
theorem namedHeads_legal : ∀ head ∈ namedHeads,
    (head.1 = .request → head.2.toNat < cmdMax) ∧
      (head.1 = .response → statusNamed head.2 = true) := by decide

/-- The instructions of the two catch-all rows, well-formed, have a head without a full-mask row. -/
theorem head_not_mem_namedHeads {c : Config} {i : Instr} (h : i.wellFormed c = true)
    (hRow : i.row ∉ fullMaskRows) : i.head ∉ namedHeads := by
  intro hMem
  obtain ⟨hRequest, hResponse⟩ := namedHeads_legal i.head hMem
  cases i with
  | reqIllegal selector size =>
    exact absurd (hRequest rfl) (Nat.not_lt.mpr (of_decide_eq_true h))
  | respUnnamed status t =>
    have hNamed : statusNamed status = true := hResponse rfl
    simp [Instr.wellFormed, hNamed] at h
  | _ => exact hRow (List.contains_iff_mem.mp rfl)

/-- Settles O4: the bytes begin with the instruction's own encoding (O2), so their key is that of its
head. -/
theorem decodedFrameMatchesItsTableRow : Obligations.DecodedFrameMatchesItsTableRow := by
  intro c bytes rest i hOrder h
  obtain ⟨hWellFormed, rfl⟩ := decodedInstructionIsWellFormed c bytes rest i h
  rw [tableKey_encode_append hOrder]
  refine ⟨row_covers_headKey i, fun hCatchAll r hr => Bool.eq_false_iff.mpr fun hCovers => ?_⟩
  exact head_not_mem_namedHeads hWellFormed hCatchAll (mem_namedHeads_of_covers hr hCovers)

end Sys2Proof.Proofs

/-! SUPPORT. The payload shapes of 43_commands R173 to R178, read back field by field. -/

namespace Sys2Proof.Proofs

open Sys2Proof Sys2Proof.Machine

/-! Each shape unpacks to the joins of its own bytes, which `joinHalf_bytes` and `joinWord_bytes`
turn back into the fields; a list of colours by induction. -/

theorem unpackColors_flatMap (colors : List Word) :
    unpackColors (colors.flatMap packU32) = some colors := by
  induction colors with
  | nil => rfl
  | cons color colors ih =>
    have hStep : unpackColors (packU32 color ++ colors.flatMap packU32) =
        (unpackColors (colors.flatMap packU32)).map (joinWord (byteOf color.toNat 0)
          (byteOf color.toNat 1) (byteOf color.toNat 2) (byteOf color.toNat 3) :: ·) := rfl
    rw [List.flatMap_cons, hStep, ih, joinWord_bytes]
    rfl

theorem flatMap_packU32_length (colors : List Word) :
    (colors.flatMap packU32).length = 4 * colors.length := by
  induction colors with
  | nil => rfl
  | cons color colors ih => simp [packU32, ih]; omega

theorem getInfo_roundtrip (p : GetInfoPayload) : unpackGetInfo p.pack = some p :=
  congrArg₂ (fun top bottom => some (GetInfoPayload.mk p.fwVersion top bottom))
    (joinHalf_bytes p.ledsTop) (joinHalf_bytes p.ledsBottom)

theorem setColor_roundtrip (p : SetColorPayload) : unpackSetColor p.pack = some p := by
  calc unpackSetColor p.pack
    _ = (unpackColors (p.colors.flatMap packU32)).map (SetColorPayload.mk p.stripMask) := rfl
    _ = some p := by rw [unpackColors_flatMap]; rfl

theorem setColor_length (p : SetColorPayload) : p.pack.length = 1 + 4 * p.colors.length := by
  rw [← flatMap_packU32_length]
  exact Nat.add_comm _ _

theorem setEffect_roundtrip (p : SetEffectPayload) : unpackSetEffect p.pack = some p :=
  congrArg (fun color => some (SetEffectPayload.mk p.effect p.speed p.stripMask color))
    (joinWord_bytes p.color)

theorem getEffect_roundtrip (p : GetEffectPayload) : unpackGetEffect p.pack = some p :=
  congrArg (fun color => some (GetEffectPayload.mk p.effect p.speed color)) (joinWord_bytes p.color)

/-- Settles O7: the fixed shapes have their length by computation, and each is read back by its own
lemma. -/
theorem payloadShapesReadBack : Obligations.PayloadShapesReadBack :=
  ⟨fun p => ⟨rfl, getInfo_roundtrip p⟩, fun _ => ⟨rfl, rfl⟩,
    fun p => ⟨setColor_length p, setColor_roundtrip p⟩, fun p => ⟨rfl, setEffect_roundtrip p⟩,
    fun p => ⟨rfl, getEffect_roundtrip p⟩⟩

end Sys2Proof.Proofs

/-! SUPPORT. What a received frame ends in: an error raised or a frame handed on (60_exceptions R232,
40_reassembler R104), and what either leaves alone. -/

namespace Sys2Proof.Proofs

open Sys2Proof Sys2Proof.Machine

/-! ### The two ends of a frame -/

theorem exec_total (i : Instr) (s : State) : ∃ t, exec i s = .next t := by
  obtain hExec | ⟨dir, selector, tail, -, hExec⟩ := exec_cases i s <;> exact ⟨_, hExec⟩

/-- A frame raises an error or is accepted, in the second case perhaps behind the log of an ignored
checksum. -/
theorem exec_ends {i : Instr} {s t : State} (h : exec i s = .next t) :
    (∃ e, t = raiseError e s) ∨ ∃ dir selector payload u,
      (u = s ∨ u = s.emit [.log .checksumIgnored]) ∧ t = acceptFrame dir selector payload u := by
  obtain hExec | ⟨dir, selector, tail, -, hExec⟩ := exec_cases i s <;> rw [hExec] at h <;>
    obtain rfl := Host.Outcome.next.inj h
  · exact .inl ⟨_, rfl⟩
  · obtain ⟨e, hRun⟩ | ⟨payload, -, hRun | hRun⟩ := runFrame_cases dir selector tail s
    · exact .inl ⟨e, hRun⟩
    · exact .inr ⟨dir, selector, payload, _, .inl rfl, hRun⟩
    · exact .inr ⟨dir, selector, payload, _, .inr rfl, hRun⟩

/-! ### Acceptance -/

/-- What acceptance emits before its outcome: the drop of a Request that finds the mailbox full, or the
delivery of a Response. -/
def handedOn (dir : Direction) (mboxFull : Bool) (selector : Byte) (payload : List Byte) :
    List OutEvent :=
  match dir with
  | .request => if mboxFull then [.log .mailboxDrop] else []
  | .response => [.respDeliver selector payload]

theorem acceptFrame_out (dir : Direction) (selector : Byte) (payload : List Byte) (s : State) :
    (acceptFrame dir selector payload s).out = s.out ++ handedOn dir s.mboxFull selector payload ++
      [.rxOutcome (.frame dir selector payload)] := by
  cases dir with
  | request =>
    rw [acceptFrame_request]
    cases hFull : s.mboxFull <;> simp [handedOn]
  | response =>
    rw [acceptFrame_response]
    simp [handedOn]

theorem acceptFrame_inputs (dir : Direction) (selector : Byte) (payload : List Byte) (s : State) :
    (acceptFrame dir selector payload s).inputs = s.inputs := by
  cases dir with
  | request =>
    rw [acceptFrame_request]
    split <;> rfl
  | response => rw [acceptFrame_response]

theorem exec_inputs {i : Instr} {s t : State} (h : exec i s = .next t) : t.inputs = s.inputs := by
  obtain ⟨e, rfl⟩ | ⟨dir, selector, payload, u, rfl | rfl, rfl⟩ := exec_ends h
  · rfl
  · exact acceptFrame_inputs dir selector payload u
  · exact acceptFrame_inputs dir selector payload (s.emit _)

/-! ### The outcome -/

/-- From `s` to `t` the trace grows by exactly one `RX_OUTCOME`, at its end (40_reassembler R100). -/
def EndsInOutcome (s t : State) : Prop :=
  ∃ new o, t.out = s.out ++ new ++ [.rxOutcome o] ∧ ∀ o', OutEvent.rxOutcome o' ∉ new

/-- Events that are no outcome may come first. -/
theorem EndsInOutcome.of_append {s u t : State} {new : List OutEvent} (hOut : u.out = s.out ++ new)
    (hNew : ∀ o, OutEvent.rxOutcome o ∉ new) (h : EndsInOutcome u t) : EndsInOutcome s t := by
  obtain ⟨more, o, hMore, hNone⟩ := h
  refine ⟨new ++ more, o, by rw [hMore, hOut, List.append_assoc s.out], fun o' hMem => ?_⟩
  obtain hMem | hMem := List.mem_append.mp hMem
  · exact hNew o' hMem
  · exact hNone o' hMem

theorem raiseError_endsInOutcome (e : FrameError) (s : State) : EndsInOutcome s (raiseError e s) := by
  refine ⟨_, .error e.code, by rw [raiseError_out, List.append_assoc s.out], fun o hMem => ?_⟩
  obtain hMem | hMem := List.mem_append.mp hMem
  · simp at hMem
  · exact rxOutcome_not_mem_writeLoop _ _ _ _ o hMem

theorem acceptFrame_endsInOutcome (dir : Direction) (selector : Byte) (payload : List Byte)
    (s : State) : EndsInOutcome s (acceptFrame dir selector payload s) := by
  refine ⟨_, _, acceptFrame_out dir selector payload s, fun o => ?_⟩
  cases dir with
  | request => cases s.mboxFull <;> simp [handedOn]
  | response => simp [handedOn]

theorem exec_endsInOutcome {i : Instr} {s t : State} (h : exec i s = .next t) : EndsInOutcome s t := by
  obtain ⟨e, rfl⟩ | ⟨dir, selector, payload, u, rfl | rfl, rfl⟩ := exec_ends h
  · exact raiseError_endsInOutcome e s
  · exact acceptFrame_endsInOutcome dir selector payload u
  · exact (acceptFrame_endsInOutcome dir selector payload _).of_append (emit_out s _) (by simp)

/-! ### The statements -/

/-- Settles O13: a frame in its oversize form raises `DataTooLarge` before any other test. -/
theorem oversizeHeaderRaisesDataTooLarge : Obligations.OversizeHeaderRaisesDataTooLarge := by
  intro s size unnamed i dir selector hForm
  have hRun : runFrame dir selector (.oversize size) s = raiseError .dataTooLarge s := rfl
  rw [exec_frameForms s hForm, hRun]
  rfl

/-- Settles O17, from what every frame ends in. -/
theorem execFrame : Obligations.ExecFrame := by
  intro i s
  obtain ⟨t, hExec⟩ := exec_total i s
  obtain ⟨⟨hCfg, hHV, hHI, hFV, hFT⟩, hLen, hVal, hLast, hFifo⟩ := exec_frameEnds hExec
  obtain ⟨new, o, hOut, -⟩ := exec_endsInOutcome hExec
  exact ⟨t, hExec, hLen, hVal, fun a => by rw [exec_buf hExec], hLast, hHV, hHI, hFV, hFT, hCfg,
    hFifo, exec_inputs hExec, _, hOut.trans (List.append_assoc _ _ _)⟩

end Sys2Proof.Proofs

/-! SUPPORT. One received byte (40_reassembler R100 to R105): when it is stale, where it is stored, and
what is judged then. -/

namespace Sys2Proof.Proofs

open Sys2Proof Sys2Proof.Machine

/-! ### Ticks -/

theorem elapsed_mod_last (c : Config) (t last : Nat) :
    elapsed c t (last % 2 ^ c.tickW) = elapsed c t last := by simp [elapsed]

theorem elapsed_mod (c : Config) (t last : Nat) :
    elapsed c (t % 2 ^ c.tickW) (last % 2 ^ c.tickW) = elapsed c t last := by simp [elapsed]

theorem elapsed_add (c : Config) (last : Nat) {gap : Nat} (h : gap < 2 ^ c.tickW) :
    elapsed c (last + gap) last = gap := by
  have hMod : last % 2 ^ c.tickW < 2 ^ c.tickW := Nat.mod_lt _ (Nat.two_pow_pos _)
  have hSum : last % 2 ^ c.tickW + gap + (2 ^ c.tickW - last % 2 ^ c.tickW) = gap + 2 ^ c.tickW := by
    omega
  calc elapsed c (last + gap) last
    _ = (last % 2 ^ c.tickW + gap + (2 ^ c.tickW - last % 2 ^ c.tickW)) % 2 ^ c.tickW := by
      simp [elapsed, Nat.add_mod]
    _ = gap := by rw [hSum, Nat.add_mod_right, Nat.mod_eq_of_lt h]

/-- Settles O28: a later tick is the earlier one plus the gap, and residues change nothing. -/
theorem elapsedIsTheTrueGap : Obligations.ElapsedIsTheTrueGap := by
  intro c last t hLe hGap
  have hElapsed : elapsed c t last = t - last := by
    simpa [Nat.add_sub_cancel' hLe] using elapsed_add c last hGap
  exact ⟨hElapsed, (elapsed_mod c t last).trans hElapsed⟩

theorem stale_iff {s : State} {t : Nat} :
    s.stale t = true ↔ s.len ≠ 0 ∧ staleTimeout ≤ elapsed s.cfg t s.lastActivity := by
  simp [State.stale]

theorem fresh_of_elapsed_lt {s : State} {t : Nat}
    (h : elapsed s.cfg t s.lastActivity < staleTimeout) : s.stale t = false :=
  Bool.eq_false_iff.mpr fun hStale => Nat.not_le.mpr h (stale_iff.mp hStale).2

/-! ### Room in the buffer -/

theorem room_of_short {s : State} (h : s.len.toNat < headerSize) : s.len.toNat < capacity s.cfg := by
  rw [headerSize_eq] at h
  rw [capacity_eq]
  omega

/-- Behind a validated header the frame it begins is incomplete, so it leaves room; before that the
header itself does. -/
theorem room_of_inv {s : State} (h : s.Inv) : s.len.toNat < capacity s.cfg := by
  cases hVal : s.headerValidated with
  | false => exact room_of_short (by simpa [hVal] using h.validated)
  | true =>
    obtain ⟨dir, selector, size, hHeader, hShort⟩ := headerFits_iff.mp (h.header hVal)
    obtain ⟨hdr, -, hJudge⟩ := header_eq_some.mp hHeader
    obtain ⟨-, -, -, hBound, -⟩ := judgeHeader_legal hJudge
    exact hShort.trans_le (frameLength_le_capacity hBound)

/-- Settles O31: the staleness test keeps the invariant, and the invariant leaves room. -/
theorem overflowGuardIsNeverTaken : Obligations.OverflowGuardIsNeverTaken := by
  intro s b t h hNone
  have hSome := appendByte_eq_some (b := b).mpr ⟨room_of_inv (staleCheck_inv h t), rfl⟩
  rw [hNone] at hSome
  cases hSome

/-! ### The byte is stored -/

/-- The store at a fill position written as a numeral. -/
theorem storeByte_at {s : State} {n : Nat} (b : Byte) (h : s.len = BitVec.ofNat lenW n)
    (hn : n < 2 ^ lenW) :
    s.storeByte b = { s with buf := s.buf.write n b, len := BitVec.ofNat lenW (n + 1) } := by
  rw [State.storeByte, (count_eq_iff hn).mp h, h, BitVec.ofNat_add]
  rfl

theorem storeByte_bufBytes {s : State} {n : Nat} {bytes : List Byte} (b : Byte) (h : s.len.toNat = n)
    (hBytes : s.buf.readBytes 0 n = some bytes) :
    (s.storeByte b).bufBytes (n + 1) = .ok (bytes ++ [b]) := by
  rw [bufBytes_ok, storeByte_buf, h, Memory.readBytes_write_end, hBytes]
  rfl

theorem bufBytes_take {s : State} {n m : Nat} {bytes : List Byte} (h : s.bufBytes n = .ok bytes)
    (hm : m ≤ n) : s.bufBytes m = .ok (bytes.take m) := by
  rw [bufBytes_ok, Memory.readBytes_eq_some] at h ⊢
  obtain ⟨hLength, hCells⟩ := h
  refine ⟨List.length_take_of_le (hLength ▸ hm), fun i hi => ?_⟩
  rw [hCells i (by omega), List.getElem?_take_of_lt hi]

/-! ### What is judged after the store -/

/-- Over a legal header a frame that is not whole waits for more. -/
theorem completionCheck_of_incomplete {t : Nat} {s : State} {dir : Direction} {selector : Byte}
    {size : Half} (hVal : s.headerValidated = true)
    (hHeader : s.header = some (.legal dir selector size))
    (hShort : s.len.toNat < frameLength s.cfg size.toNat) :
    completionCheck t s = .next (moreData t s) := by
  obtain ⟨hdr, hBytes, hJudge⟩ := header_eq_some.mp hHeader
  obtain ⟨-, -, hSize, -, -⟩ := judgeHeader_legal hJudge
  rw [completionCheck_of_header hVal hBytes hSize, if_pos hShort]

/-- The byte that completes a legal header. -/
theorem headerCheck_of_legal {t : Nat} {s : State} {dir : Direction} {selector : Byte} {size : Half}
    (hVal : s.headerValidated = false) (hLen : s.len.toNat = headerSize)
    (hHeader : s.header = some (.legal dir selector size)) :
    headerCheck t s = .next (moreData t s.validateHeader) := by
  obtain ⟨hdr, hBytes, hJudge⟩ := header_eq_some.mp hHeader
  have hFooter := (footerSize_bounds s.cfg).1
  have hShort : s.len.toNat < frameLength s.cfg size.toNat := by
    rw [hLen, headerSize_eq, frameLength_eq]
    omega
  rw [headerCheck_seven hVal hLen.ge hBytes, hJudge]
  exact completionCheck_of_incomplete (s := s.validateHeader) rfl hHeader hShort

/-- The byte that makes the buffer decodable: a refused header has seven bytes, any other frame has the
length its header dictates. -/
theorem headerCheck_of_decode {t : Nat} {s : State} {bytes : List Byte} {i : Instr}
    (hVal : s.headerValidated = decide (headerSize < s.len.toNat))
    (hBytes : s.bufBytes s.len.toNat = .ok bytes) (hDecode : decode s.cfg bytes = .ok (i, [])) :
    headerCheck t s = exec i s := by
  obtain ⟨hLength, -⟩ := Memory.readBytes_eq_some.mp (bufBytes_ok.mp hBytes)
  obtain ⟨h7, hCases⟩ := decode_cases hDecode
  have hSeven (hRest : [] = bytes.drop 7) :
      s.headerValidated = false ∧ s.len.toNat = headerSize ∧ s.bufBytes headerSize = .ok bytes := by
    have hLen : s.len.toNat = headerSize :=
      hLength ▸ Nat.le_antisymm (List.drop_eq_nil_iff.mp hRest.symm) h7
    exact ⟨by simp [hVal, hLen], hLen, hLen ▸ hBytes⟩
  obtain ⟨selector, size, hJudge, rfl, hRest⟩ | ⟨dir, selector, size, hJudge, rfl, hRest⟩ |
    ⟨dir, selector, size, hJudge, hFits, -, hRest⟩ := hCases
  · obtain ⟨hVal, hLen, hHeader⟩ := hSeven hRest
    rw [headerCheck_seven hVal hLen.ge hHeader, hJudge]
  · obtain ⟨hVal, hLen, hHeader⟩ := hSeven hRest
    rw [headerCheck_seven hVal hLen.ge hHeader, hJudge]
  · have hWhole : frameLength s.cfg size.toNat = s.len.toNat :=
      hLength ▸ Nat.le_antisymm hFits (List.drop_eq_nil_iff.mp hRest.symm)
    have hLong : headerSize < s.len.toNat := by
      have hFooter := (footerSize_bounds s.cfg).1
      rw [← hWhole, headerSize_eq, frameLength_eq]
      omega
    have hVal : s.headerValidated = true := by simpa [hVal] using hLong
    obtain ⟨-, -, hSize, -, -⟩ := judgeHeader_legal ((judgeHeader_take s.cfg bytes h7).trans hJudge)
    rw [headerCheck_validated hVal, completionCheck_of_header hVal (bufBytes_take hBytes hLong.le) hSize,
      hWhole, if_neg (Nat.lt_irrefl _)]
    simp only [hBytes, hDecode]

/-! ### The step of a byte -/

section

variable {s : State} {b : Byte} {t : Nat} {rest : List Event}

/-- A stale byte is received as by the block whose partial frame was discarded. -/
theorem step_of_stale (hInputs : s.inputs = .rxByte b t :: rest) (hStale : s.stale t = true) :
    step s = step (s.clearBuffer.emit [.log .staleDiscard]) := by
  have hFresh : (s.clearBuffer.emit [.log .staleDiscard]).stale t = false := stale_of_empty rfl
  rw [step_rxByte hInputs, step_rxByte (s := s.clearBuffer.emit _) hInputs, rxByte, rxByte,
    staleCheck_of_stale (s := s.withInputs rest) hStale,
    staleCheck_of_fresh (s := (s.clearBuffer.emit _).withInputs rest) hFresh]
  rfl

theorem step_of_room (hInputs : s.inputs = .rxByte b t :: rest) (hFresh : s.stale t = false)
    (hRoom : s.len.toNat < capacity s.cfg) :
    step s = headerCheck t ((s.withInputs rest).storeByte b) :=
  (step_rxByte hInputs).trans (rxByte_of_room (s := s.withInputs rest) hFresh hRoom)

end

/-- Settles O20, by `headerCheck_of_decode`. -/
theorem stepRunsTheDecodedFrame : Obligations.StepRunsTheDecodedFrame := by
  intro s b t rest bytes i hInputs hFresh hRoom hVal hBytes hDecode
  have hLen := storeByte_len_toNat (s := s.withInputs rest) b hRoom
  rw [step_of_room hInputs hFresh hRoom]
  refine headerCheck_of_decode ?_ (hLen ▸ hBytes) hDecode
  rw [hLen]
  exact hVal.trans (decide_eq_decide.mpr Nat.lt_succ_iff.symm)

/-- Settles O22: below seven bytes nothing is judged. -/
theorem headerBytesAreOnlyStored : Obligations.HeaderBytesAreOnlyStored := by
  intro s b t rest hInputs hFresh hShort hVal
  have hRoom : s.len.toNat < capacity s.cfg := room_of_short (Nat.lt_succ_of_lt hShort)
  have hLen := storeByte_len_toNat (s := s.withInputs rest) b hRoom
  calc step s
    _ = headerCheck t ((s.withInputs rest).storeByte b) := step_of_room hInputs hFresh hRoom
    _ = .next (moreData t ((s.withInputs rest).storeByte b)) :=
      headerCheck_short hVal (hLen.trans_lt (Nat.succ_lt_succ hShort))

/-- Settles O23: the header is judged, legal, and the frame behind it not yet whole. -/
theorem legalHeaderIsValidated : Obligations.LegalHeaderIsValidated := by
  intro s b t rest hdr dir selector size hInputs hFresh hLen hVal hBytes hJudge
  have hSix : s.len.toNat = 6 := (count_eq_iff (by decide)).mp hLen
  have hRoom : s.len.toNat < capacity s.cfg := room_of_short (by rw [hSix]; decide)
  have hSeven := storeByte_len_toNat (s := s.withInputs rest) b hRoom
  have hHeader : ((s.withInputs rest).storeByte b).header = some (.legal dir selector size) :=
    header_eq_some.mpr ⟨hdr ++ [b], storeByte_bufBytes (s := s.withInputs rest) b hSix hBytes, hJudge⟩
  calc step s
    _ = headerCheck t ((s.withInputs rest).storeByte b) := step_of_room hInputs hFresh hRoom
    _ = .next (moreData t ((s.withInputs rest).storeByte b).validateHeader) :=
      headerCheck_of_legal hVal (hSeven.trans (congrArg (· + 1) hSix)) hHeader
    _ = _ := by rw [storeByte_at (s := s.withInputs rest) b hLen (by decide)]; rfl

/-- Settles O25: a byte behind the header leaves the verdict on it, and the frame is not yet whole. -/
theorem bodyBytesAreOnlyStored : Obligations.BodyBytesAreOnlyStored := by
  intro s b t rest dir selector size hInputs hFresh hLen hVal hHeader hShort
  obtain ⟨hdr, -, hJudge⟩ := header_eq_some.mp hHeader
  obtain ⟨-, -, -, hBound, -⟩ := judgeHeader_legal hJudge
  have hRoom : s.len.toNat < capacity s.cfg :=
    (Nat.lt_of_succ_lt hShort).trans_le (frameLength_le_capacity hBound)
  have hNext := storeByte_len_toNat (s := s.withInputs rest) b hRoom
  have hSame := storeByte_header (s := s.withInputs rest) b hLen
  calc step s
    _ = headerCheck t ((s.withInputs rest).storeByte b) := step_of_room hInputs hFresh hRoom
    _ = completionCheck t ((s.withInputs rest).storeByte b) := headerCheck_validated hVal
    _ = .next (moreData t ((s.withInputs rest).storeByte b)) :=
      completionCheck_of_incomplete hVal (hSame.trans hHeader) (hNext.trans_lt hShort)

/-- Settles O26, as the header byte at fill position 0, where no byte is stale. -/
theorem byteIntoAnEmptyBufferStartsAFrame : Obligations.ByteIntoAnEmptyBufferStartsAFrame := by
  intro s b t rest hInputs hLen hVal
  have hZero : s.len.toNat = 0 := (count_eq_iff (by decide)).mp hLen
  rw [headerBytesAreOnlyStored s b t rest hInputs (stale_of_empty hLen) (by omega) hVal, hZero, hLen]
  rfl

/-- Settles O27: the partial frame discarded, the byte enters an empty buffer. -/
theorem staleByteStartsAFreshFrame : Obligations.StaleByteStartsAFreshFrame := by
  intro s b t rest hInputs hLen hElapsed
  rw [step_of_stale hInputs (stale_iff.mpr ⟨hLen, hElapsed⟩),
    byteIntoAnEmptyBufferStartsAFrame (s.clearBuffer.emit _) b t rest hInputs rfl rfl]
  simp [State.emit, State.clearBuffer]

/-! ### The outcome of a byte -/

theorem staleCheck_out (t : Nat) (s : State) :
    ∃ new, (staleCheck t s).out = s.out ++ new ∧ ∀ o, OutEvent.rxOutcome o ∉ new := by
  obtain h | h := staleCheck_cases t s <;> rw [h]
  · exact ⟨[], by simp, by simp⟩
  · exact ⟨[.log .staleDiscard], rfl, by simp⟩

theorem rxByte_endsInOutcome {b : Byte} {t : Nat} {s s' : State} (h : rxByte b t s = .next s') :
    EndsInOutcome s s' := by
  obtain ⟨new, hOut, hNew⟩ := staleCheck_out t s
  refine EndsInOutcome.of_append hOut hNew ?_
  obtain rfl | rfl | ⟨u, hStored, hEnd⟩ := rxByte_cases h
  · exact raiseError_endsInOutcome _ _
  · exact raiseError_endsInOutcome _ ((staleCheck t s).storeByte b)
  · have hStore : u.out = (staleCheck t s).out ++ [] := by
      obtain rfl | rfl := hStored <;> simp
    refine EndsInOutcome.of_append hStore (by simp) ?_
    obtain rfl | ⟨i, hExec⟩ := hEnd
    · exact ⟨[], .more, by simp [moreData], by simp⟩
    · exact exec_endsInOutcome hExec

/-- Settles O29, by the ends a received byte can come to. -/
theorem oneOutcomePerReceivedByte : Obligations.OneOutcomePerReceivedByte := by
  intro s t b tick rest hInputs hNext
  rw [step_rxByte hInputs] at hNext
  obtain ⟨new, o, hOut, hNew⟩ := rxByte_endsInOutcome hNext
  exact ⟨new, o, hOut, hNew⟩

/-! ### The phase -/

theorem phase_eq_empty {s : State} : s.phase = .empty ↔ s.len = 0 := by
  unfold State.phase
  split
  · simp_all
  · split <;> simp_all

/-- Under the invariant the fill position gives the phase of a non-empty buffer (10_state R25, R34 (b)). -/
theorem phase_of_inv {s : State} (h : s.Inv) (hLen : s.len ≠ 0) :
    s.phase = if headerSize ≤ s.len.toNat then .body else .header := by
  simp only [State.phase, if_neg hLen, h.validated, decide_eq_true_eq]

theorem phase_eq_header {s : State} (h : s.Inv) :
    s.phase = .header ↔ s.len ≠ 0 ∧ s.len.toNat < headerSize := by
  by_cases hLen : s.len = 0
  · simp [phase_eq_empty.mpr hLen, hLen]
  · simp only [phase_of_inv h hLen, ite_eq_right_iff, reduceCtorEq, imp_false, Nat.not_le, ne_eq,
      hLen, not_false_eq_true, true_and]

theorem phase_eq_body {s : State} (h : s.Inv) : s.phase = .body ↔ headerSize ≤ s.len.toNat := by
  by_cases hLen : s.len = 0
  · simp [phase_eq_empty.mpr hLen, hLen, headerSize_eq]
  · simp [phase_of_inv h hLen]

/-- A received byte empties the buffer or stands one further in it. -/
theorem rxByte_len {b : Byte} {t : Nat} {s s' : State} (h : rxByte b t s = .next s')
    (hRoom : (staleCheck t s).len.toNat < capacity (staleCheck t s).cfg) :
    s'.len = 0 ∨ s'.len.toNat = (staleCheck t s).len.toNat + 1 := by
  obtain rfl | rfl | ⟨u, hStored, hEnd⟩ := rxByte_cases h
  · exact .inl rfl
  · exact .inl rfl
  · obtain rfl | ⟨i, hExec⟩ := hEnd
    · obtain rfl | rfl := hStored <;> exact .inr (storeByte_len_toNat b hRoom)
    · exact .inl (exec_frameEnds hExec).len

section

variable {s t : State} {b : Byte} {tick : Nat} {rest : List Event}

/-- A byte into a stale or an empty buffer is the first of a frame. -/
theorem step_len_of_start (hInv : s.Inv) (hInputs : s.inputs = .rxByte b tick :: rest)
    (hNext : step s = .next t) (hStart : s.stale tick = true ∨ s.len = 0) : t.len = 1 := by
  obtain hStale | hLen := hStart
  · obtain ⟨hLen, hElapsed⟩ := stale_iff.mp hStale
    rw [staleByteStartsAFreshFrame s b tick rest hInputs hLen hElapsed] at hNext
    rw [← Host.Outcome.next.inj hNext]
  · have hVal : s.headerValidated = false := by rw [hInv.validated, hLen]; rfl
    rw [byteIntoAnEmptyBufferStartsAFrame s b tick rest hInputs hLen hVal] at hNext
    rw [← Host.Outcome.next.inj hNext]

/-- A fresh byte that leaves the header incomplete stands in the buffer. -/
theorem step_len_of_short (hInv : s.Inv) (hInputs : s.inputs = .rxByte b tick :: rest)
    (hNext : step s = .next t) (hFresh : s.stale tick = false) (hShort : s.len.toNat < 6) :
    t.len.toNat = s.len.toNat + 1 := by
  have hVal : s.headerValidated = false := by
    rw [hInv.validated, headerSize_eq]
    exact decide_eq_false (by omega)
  rw [headerBytesAreOnlyStored s b tick rest hInputs hFresh hShort hVal] at hNext
  rw [← Host.Outcome.next.inj hNext]
  exact storeByte_len_toNat b (room_of_inv hInv)

/-- A fresh byte empties the buffer or stands one further in it. -/
theorem step_len_of_fresh (hInv : s.Inv) (hInputs : s.inputs = .rxByte b tick :: rest)
    (hNext : step s = .next t) (hFresh : s.stale tick = false) :
    t.len = 0 ∨ t.len.toNat = s.len.toNat + 1 := by
  rw [step_rxByte hInputs] at hNext
  have hSame : staleCheck tick (s.withInputs rest) = s.withInputs rest := staleCheck_of_fresh hFresh
  have hLen := rxByte_len hNext
  rw [hSame] at hLen
  exact hLen (room_of_inv (withInputs_inv hInv rest))

end

/-- Settles O30: the invariant reads the phase off the fill position, before and after. -/
theorem phaseTransitions : Obligations.PhaseTransitions := by
  intro s t b tick rest hInv hInputs hNext
  have hInvNext : t.Inv := stepKeepsTheInvariant s t hInv hNext
  have hEmpty (h : t.len = 0) : t.phase = .empty ∧ t.len = 0 := ⟨phase_eq_empty.mpr h, h⟩
  refine ⟨fun hStart => ?start, fun hFresh hHeader => ⟨fun hShort => ?short, fun hSix => ?seventh⟩,
    fun hFresh hBody => ?body⟩
  case start =>
    have hOne := step_len_of_start hInv hInputs hNext (hStart.imp_right phase_eq_empty.mp)
    exact ⟨(phase_eq_header hInvNext).mpr (by rw [hOne]; decide), hOne⟩
  case short =>
    have hLen := step_len_of_short hInv hInputs hNext hFresh hShort
    refine ⟨(phase_eq_header hInvNext).mpr ⟨fun hZero => ?_, by rw [headerSize_eq]; omega⟩, hLen⟩
    rw [hZero] at hLen
    cases hLen
  case seventh =>
    refine (step_len_of_fresh hInv hInputs hNext hFresh).symm.imp (fun hLen => ?_) hEmpty
    rw [hSix] at hLen
    exact ⟨(phase_eq_body hInvNext).mpr hLen.ge, (count_eq_iff (by decide)).mpr hLen⟩
  case body =>
    have hLong := (phase_eq_body hInv).mp hBody
    refine (step_len_of_fresh hInv hInputs hNext hFresh).symm.imp (fun hLen => ?_) hEmpty
    exact ⟨(phase_eq_body hInvNext).mpr (by omega), hLen⟩

end Sys2Proof.Proofs

/-! SUPPORT. Whole frames: the bytes of a serialised frame, received one by one, are one frame
(40_reassembler R116, R117). -/

namespace Sys2Proof.Proofs

open Sys2Proof Sys2Proof.Machine

/-! ### A serialised frame in the middle of its reception -/

/-- The reassembler of `s` holds the bytes `got`, its header flag as 10_state R34 (b) has it. -/
structure Receiving (got : List Byte) (s : State) : Prop where
  len : s.len.toNat = got.length
  cells : s.buf.readBytes 0 got.length = some got
  validated : s.headerValidated = decide (headerSize ≤ got.length)

theorem receiving_nil {s : State} (hLen : s.len = 0) (hVal : s.headerValidated = false) :
    Receiving [] s := ⟨by rw [hLen]; rfl, rfl, hVal⟩

/-- A byte received within a frame: stored, the header flag raised at the seventh, the outcome `More`. -/
def absorb (b : Byte) (t : Nat) (rest : List Event) (s : State) : State :=
  { s with
    inputs := rest
    buf := s.buf.write s.len.toNat b
    len := s.len + 1
    headerValidated := decide (headerSize ≤ s.len.toNat + 1)
    lastActivity := t % 2 ^ s.cfg.tickW
    out := s.out ++ [.rxOutcome .more] }

theorem receiving_absorb {got : List Byte} {s : State} (h : Receiving got s) (b : Byte) (t : Nat)
    (rest : List Event) (hRoom : s.len.toNat < capacity s.cfg) :
    Receiving (got ++ [b]) (absorb b t rest s) where
  len := by
    rw [List.length_append, ← h.len]
    exact storeByte_len_toNat b hRoom
  cells := by
    have hBytes := bufBytes_ok.mp (storeByte_bufBytes b h.len h.cells)
    rw [List.length_append]
    exact hBytes
  validated := by
    rw [List.length_append, ← h.len]
    rfl

theorem judgeHeader_serialize (c : Config) {dir : Direction} {selector : Byte} {payload : List Byte}
    (hLegal : dir = .request → selector.toNat < cmdMax) (hPayload : payload.length ≤ maxDataSize) :
    judgeHeader c (serialize c dir.magic selector payload) =
      .legal dir selector (BitVec.ofNat 16 payload.length) := by
  simp only [serialize, coveredBytes, List.append_assoc]
  exact judgeHeader_headerBytes c _ hLegal ((sizeField_toNat hPayload).symm ▸ hPayload)

section

variable {s : State} {dir : Direction} {selector b : Byte} {payload got todo : List Byte} {t : Nat}
  {rest : List Event}

/-- A byte of the frame still to come has its place in the buffer. -/
theorem room_of_receiving (h : Receiving got s) (hPayload : payload.length ≤ maxDataSize)
    (hFrame : got ++ b :: todo = serialize s.cfg dir.magic selector payload) :
    s.len.toNat < capacity s.cfg := by
  have hLength := congrArg List.length hFrame
  have hFits := frameLength_le_capacity (c := s.cfg) hPayload
  rw [serialize_length, List.length_append, List.length_cons, ← h.len] at hLength
  omega

/-- The header of a serialised frame is legal as soon as its seven bytes are there. -/
theorem judgeHeader_got (hLegal : dir = .request → selector.toNat < cmdMax)
    (hPayload : payload.length ≤ maxDataSize)
    (hFrame : got ++ todo = serialize s.cfg dir.magic selector payload) (h7 : 7 ≤ got.length) :
    judgeHeader s.cfg (got.take 7) = .legal dir selector (BitVec.ofNat 16 payload.length) := by
  rw [← judgeHeader_serialize s.cfg hLegal hPayload, ← hFrame,
    ← judgeHeader_take _ (got ++ todo) (by rw [List.length_append]; omega),
    List.take_append_of_le_length h7]

/-- A byte that leaves the header incomplete is absorbed. -/
theorem step_of_header (h : Receiving got s) (hInputs : s.inputs = .rxByte b t :: rest)
    (hFresh : s.stale t = false) (hShort : got.length < 6) : step s = .next (absorb b t rest s) := by
  have hVal : s.headerValidated = false := by
    rw [h.validated, headerSize_eq]
    exact decide_eq_false (by omega)
  have hKept : decide (headerSize ≤ s.len.toNat + 1) = s.headerValidated := by
    rw [hVal, h.len, headerSize_eq]
    exact decide_eq_false (by omega)
  rw [headerBytesAreOnlyStored s b t rest hInputs hFresh (h.len ▸ hShort) hVal, absorb, hKept]

/-- The byte that completes a legal header is absorbed. -/
theorem step_of_headerEnd {size : Half} (h : Receiving got s)
    (hInputs : s.inputs = .rxByte b t :: rest) (hFresh : s.stale t = false) (hSix : got.length = 6)
    (hJudge : judgeHeader s.cfg (got ++ [b]) = .legal dir selector size) :
    step s = .next (absorb b t rest s) := by
  have hLen : s.len = 6 := (count_eq_iff (by decide)).mpr (h.len.trans hSix)
  have hVal : s.headerValidated = false := by
    rw [h.validated, hSix]
    rfl
  rw [legalHeaderIsValidated s b t rest got dir selector size hInputs hFresh hLen hVal (hSix ▸ h.cells)
    hJudge, absorb, hLen]
  rfl

/-- A byte behind a legal header that does not complete the frame is absorbed. -/
theorem step_of_body {size : Half} (h : Receiving got s) (hInputs : s.inputs = .rxByte b t :: rest)
    (hFresh : s.stale t = false) (hLong : 7 ≤ got.length)
    (hJudge : judgeHeader s.cfg (got.take 7) = .legal dir selector size)
    (hShort : got.length + 1 < frameLength s.cfg size.toNat) :
    step s = .next (absorb b t rest s) := by
  have hVal : s.headerValidated = true := by
    rw [h.validated]
    exact decide_eq_true hLong
  have hKept : decide (headerSize ≤ s.len.toNat + 1) = s.headerValidated := by
    rw [hVal, h.len]
    exact decide_eq_true (Nat.le_succ_of_le hLong)
  have hHeader : s.header = some (.legal dir selector size) :=
    header_eq_some.mpr ⟨got.take 7, bufBytes_take (bufBytes_ok.mpr h.cells) hLong, hJudge⟩
  rw [bodyBytesAreOnlyStored s b t rest dir selector size hInputs hFresh (h.len ▸ hLong) hVal hHeader
    (h.len ▸ hShort), absorb, hKept]

/-- Within a frame every fresh byte but the last is absorbed. -/
theorem step_of_more (h : Receiving got s) (hInputs : s.inputs = .rxByte b t :: rest)
    (hFresh : s.stale t = false) (hLegal : dir = .request → selector.toNat < cmdMax)
    (hPayload : payload.length ≤ maxDataSize)
    (hFrame : got ++ b :: todo = serialize s.cfg dir.magic selector payload) (hMore : todo ≠ []) :
    step s = .next (absorb b t rest s) := by
  obtain hHeader | hSix | hBody := Nat.lt_trichotomy got.length 6
  · exact step_of_header h hInputs hFresh hHeader
  · have hSeven : (got ++ [b]).length = 7 := by simp [hSix]
    have hJudge := judgeHeader_got (got := got ++ [b]) (todo := todo) hLegal hPayload
      (by rw [← hFrame, List.append_assoc]; rfl) hSeven.ge
    rw [List.take_of_length_le hSeven.le] at hJudge
    exact step_of_headerEnd h hInputs hFresh hSix hJudge
  · have hShort : got.length + 1 < frameLength s.cfg payload.length := by
      have hTodo := List.length_pos_of_ne_nil hMore
      have hLength := congrArg List.length hFrame
      rw [serialize_length, List.length_append, List.length_cons] at hLength
      omega
    exact step_of_body h hInputs hFresh hBody (judgeHeader_got hLegal hPayload hFrame hBody)
      (by rw [sizeField_toNat hPayload]; exact hShort)

/-- The last byte of a frame: the frame decodes to its own fields, and the receiver accepts it. -/
theorem step_of_last (h : Receiving got s) (hInputs : s.inputs = .rxByte b t :: rest)
    (hFresh : s.stale t = false) (hLegal : dir = .request → selector.toNat < cmdMax)
    (hPayload : payload.length ≤ maxDataSize)
    (hFrame : got ++ [b] = serialize s.cfg dir.magic selector payload) :
    step s = .next (acceptFrame dir selector payload ((s.withInputs rest).storeByte b)) := by
  have hRoom := room_of_receiving h hPayload hFrame
  have hBytes := storeByte_bufBytes (s := s.withInputs rest) b h.len h.cells
  have hDecode := serializedFrameDecodes s.cfg dir selector payload [] hPayload hLegal
  rw [List.append_nil, ← hFrame] at hDecode
  have hChecksum (hPresent : s.cfg.checksumMode ≠ .absent) :
      generatedChecksum s.cfg (coveredBytes s.cfg dir.magic selector payload) =
        some (checksumOf s.cfg (coveredBytes s.cfg dir.magic selector payload)) :=
    if_pos ((hasChecksum_iff s.cfg).mpr hPresent)
  rw [stepRunsTheDecodedFrame s b t rest _ _ hInputs hFresh hRoom (h.len ▸ h.validated)
      (h.len ▸ hBytes) hDecode, exec_instrOf _ _ hLegal,
    runFrame_good (s := (s.withInputs rest).storeByte b) hPayload hChecksum]

end

/-! ### The run over a frame -/

/-- Each tick comes less than `STALE_TIMEOUT` after the one before it. -/
def FreshTicks (c : Config) (ticks : List Nat) : Prop :=
  ticks.IsChain fun last t => elapsed c t last < staleTimeout

/-- Where the next byte is offered in time, it is not stale after an absorbed one. -/
theorem absorb_fresh {c : Config} {s : State} {b : Byte} {t t' : Nat} {rest : List Event}
    (hCfg : s.cfg = c) (h : elapsed c t' t < staleTimeout) : (absorb b t rest s).stale t' = false := by
  subst hCfg
  exact fresh_of_elapsed_lt ((elapsed_mod_last s.cfg t' t).trans_lt h)

/-- Within a frame, the bytes still to come end in its acceptance, with `More` for all but the last. -/
theorem run_of_receiving {c : Config} {dir : Direction} {selector : Byte} {payload : List Byte}
    {rest : List Event} (hLegal : dir = .request → selector.toNat < cmdMax)
    (hPayload : payload.length ≤ maxDataSize) (todo : List Byte) :
    ∀ {got : List Byte} {b : Byte} {t : Nat} {ticks : List Nat} {s : State}, s.cfg = c →
      Receiving got s → s.stale t = false → FreshTicks c (t :: ticks) → ticks.length = todo.length →
      got ++ b :: todo = serialize c dir.magic selector payload →
      s.inputs = receiveEvents (b :: todo) (t :: ticks) ++ rest →
        ∃ u, Host.Core.run Sys2Proof.core (ticks.length + 1) s =
            .next (acceptFrame dir selector payload u) ∧
          u.inputs = rest ∧ u.mboxFull = s.mboxFull ∧
          u.out = s.out ++ List.replicate ticks.length (.rxOutcome .more) := by
  induction todo with
  | nil =>
    intro got b t ticks s hCfg h hFresh hTicks hLength hFrame hInputs
    subst hCfg
    obtain rfl := List.length_eq_zero_iff.mp hLength
    refine ⟨_, core_run_succ 0 (step_of_last h hInputs hFresh hLegal hPayload hFrame), rfl, rfl, ?_⟩
    exact (List.append_nil s.out).symm
  | cons b' todo ih =>
    intro got b t ticks s hCfg h hFresh hTicks hLength hFrame hInputs
    subst hCfg
    obtain ⟨t', ticks, rfl⟩ := List.exists_cons_of_length_eq_add_one hLength
    obtain ⟨hGap, hTicks⟩ := List.isChain_cons_cons.mp hTicks
    have hRoom := room_of_receiving h hPayload hFrame
    have hStep := step_of_more h hInputs hFresh hLegal hPayload hFrame (List.cons_ne_nil b' todo)
    obtain ⟨u, hRun, hRest, hFull, hOut⟩ := ih (s := absorb b t _ s) rfl
      (receiving_absorb h b t _ hRoom) (absorb_fresh rfl hGap) hTicks (Nat.succ.inj hLength)
      (by rw [List.append_assoc]; exact hFrame) rfl
    refine ⟨u, (core_run_succ _ hStep).trans hRun, hRest, hFull, ?_⟩
    rw [hOut, List.length_cons, List.replicate_succ]
    exact List.append_assoc _ _ _

/-! ### The mailbox after acceptance -/

theorem acceptFrame_request_of_empty {s : State} (cmd : Byte) (payload : List Byte)
    (h : s.mboxFull = false) : acceptFrame .request cmd payload s =
      (s.clearBuffer.fillMailbox cmd payload).emit [.rxOutcome (.frame .request cmd payload)] := by
  simp [acceptFrame, submit, h]

/-- A payload that was submitted is read back whole. -/
theorem fillMailbox_mailboxBytes (s : State) (cmd : Byte) {payload : List Byte}
    (h : payload.length ≤ maxDataSize) : (s.fillMailbox cmd payload).mailboxBytes = .ok payload := by
  rw [State.mailboxBytes, fillMailbox_mboxLen, count_toNat h, if_neg (Nat.not_lt.mpr h),
    fillMailbox_mboxData, Memory.readBytes_writeBytes]

/-! ### The statements -/

/-- Settles O32: an empty buffer holds none of the frame yet, and `run_of_receiving` takes it to the
frame's acceptance by induction on the bytes. -/
theorem serializedFrameIsReceivedIntact : Obligations.SerializedFrameIsReceivedIntact := by
  intro s dir selector payload ticks rest hLen hVal hPayload hLegal hLength hGaps hInputs
  have hTicks : FreshTicks s.cfg ticks := List.isChain_iff_getElem.mpr hGaps
  obtain ⟨n, hSize⟩ : ∃ n, (serialize s.cfg dir.magic selector payload).length = n + 1 :=
    Nat.exists_eq_add_one.mpr (by rw [serialize_length, frameLength_eq]; omega)
  obtain ⟨b, todo, hFrame⟩ := List.exists_cons_of_length_eq_add_one hSize
  obtain ⟨t, ticks, rfl⟩ := List.exists_cons_of_length_eq_add_one (hLength.trans hSize)
  rw [hFrame] at hInputs hLength
  obtain ⟨u, hRun, hRest, hFull, hOut⟩ := run_of_receiving hLegal hPayload todo rfl
    (receiving_nil hLen hVal) (stale_of_empty hLen) hTicks (Nat.succ.inj hLength) hFrame.symm hInputs
  obtain ⟨-, hEmpty, hCleared, -, -⟩ := acceptFrame_frameEnds dir selector payload u
  refine ⟨_, hRun, hEmpty, hCleared, (acceptFrame_inputs dir selector payload u).trans hRest, ?_,
    ?_⟩
  · rw [acceptFrame_out, hOut, hFull]
    cases dir <;> rfl
  · rintro rfl hMailbox
    rw [acceptFrame_request_of_empty selector payload (hFull.trans hMailbox)]
    exact ⟨rfl, rfl, fillMailbox_mailboxBytes u.clearBuffer selector hPayload⟩

/-- A run depends on its first state only through that state's step. -/
theorem core_run_congr {s u : State} (k : Nat) (h : step s = step u) :
    Host.Core.run Sys2Proof.core (k + 1) s = Host.Core.run Sys2Proof.core (k + 1) u := by
  have hStep : Host.Core.step Sys2Proof.core s = Host.Core.step Sys2Proof.core u := h
  simp only [Host.Core.run, hStep]

/-- Settles O33: the first byte steps as in the block whose partial frame was discarded, and from there
the frame is received into an empty buffer. -/
theorem freshFrameAfterAStalePartialOne : Obligations.FreshFrameAfterAStalePartialOne := by
  intro s dir selector payload tick ticks rest hLen hElapsed hPayload hLegal hLength hGaps hInputs
  obtain ⟨b, todo, hFrame⟩ := List.exists_cons_of_length_eq_add_one hLength.symm
  have hByte : s.inputs = .rxByte b tick :: (receiveEvents todo ticks ++ rest) := by
    rw [hInputs, hFrame]
    rfl
  have hStep := step_of_stale hByte (stale_iff.mpr ⟨hLen, hElapsed⟩)
  obtain ⟨t, hRun, hEmpty, hVal, hRest, hOut, -⟩ := serializedFrameIsReceivedIntact
    (s.clearBuffer.emit [.log .staleDiscard]) dir selector payload (tick :: ticks) rest rfl rfl hPayload
    hLegal hLength hGaps hInputs
  exact ⟨t, (core_run_congr _ hStep).trans hRun, hEmpty, hVal, hRest, hOut⟩

end Sys2Proof.Proofs

/-! SUPPORT. A complete frame with a good footer and a wrong checksum, in the builds that have the field
(41_checksum R133, R134). -/

namespace Sys2Proof.Proofs

open Sys2Proof Sys2Proof.Machine

/-! ### The mismatch -/

theorem checksumCheck_eq_mismatch_iff {c : Config} {covered : List Byte} {received : Option Word} :
    checksumCheck c covered received = .mismatch ↔
      c.checksumMode ≠ .absent ∧ received ≠ some (checksumOf c covered) := by
  cases hMode : c.checksumMode <;> simp [checksumCheck, hMode]

/-- Behind a payload in bounds and a good footer, a mismatch is an error or is logged, by the build. -/
theorem runFrame_mismatch {dir : Direction} {selector : Byte} {payload : List Byte}
    {checksum : Option Word} {s : State} (hPayload : payload.length ≤ maxDataSize)
    (hPresent : s.cfg.checksumMode ≠ .absent)
    (hWrong : checksum ≠ some (checksumOf s.cfg (coveredBytes s.cfg dir.magic selector payload))) :
    runFrame dir selector (.complete payload checksum footerMagic) s =
      if s.cfg.checksumMode = .enforced then raiseError .invalidData s
      else acceptFrame dir selector payload (s.emit [.log .checksumIgnored]) := by
  have hCheck := checksumCheck_eq_mismatch_iff.mpr ⟨hPresent, hWrong⟩
  simp only [runFrame, if_neg (Nat.not_lt.mpr hPayload), ne_eq, not_true_eq_false, if_false, hCheck]

/-! ### The statements -/

/-- Settles O15: in the `Enforced` build the mismatch raises `InvalidData`. -/
theorem checksumMismatchRaisesInvalidData : Obligations.ChecksumMismatchRaisesInvalidData := by
  intro s payload checksum unnamed i dir selector hForm hPayload hMode hWrong
  have hPresent : s.cfg.checksumMode ≠ .absent := by simp [hMode]
  rw [exec_frameForms s hForm, runFrame_mismatch hPayload hPresent hWrong, if_pos hMode]
  rfl

/-- Settles O16: in the `Ignored` build the frame is accepted behind the log, where the frame with the
right checksum is accepted too. -/
theorem ignoredChecksumMismatchIsLoggedAndAccepted :
    Obligations.IgnoredChecksumMismatchIsLoggedAndAccepted := by
  intro s payload checksum unnamed i j dir selector hWrongForm hRightForm hPayload hMode hWrong
  have hPresent : s.cfg.checksumMode ≠ .absent := by simp [hMode]
  have hNotEnforced : s.cfg.checksumMode ≠ .enforced := by simp [hMode]
  have hRight := runFrame_good (dir := dir) (selector := selector)
    (s := s.emit [.log .checksumIgnored]) hPayload fun _ => rfl
  calc exec i s
      = .next (acceptFrame dir selector payload (s.emit [.log .checksumIgnored])) := by
        rw [exec_frameForms s hWrongForm, runFrame_mismatch hPayload hPresent hWrong,
          if_neg hNotEnforced]
    _ = exec j (s.emit [.log .checksumIgnored]) := by
        rw [exec_frameForms _ hRightForm]
        exact congrArg _ hRight.symm

end Sys2Proof.Proofs

/-! SUPPORT. What a frame leaves in the mailbox (42_mailbox_dispatch R140 to R142, R146): a good Request
fills an empty one, and nothing else but a `POLL` or a `RESET` writes it. -/

namespace Sys2Proof.Proofs

open Sys2Proof Sys2Proof.Machine

/-! ### A good frame is accepted -/

section

variable {s : State} {payload : List Byte} {checksum : Option Word} {i : Instr} {cmd status : Byte}

theorem exec_good_request (hForm : (i, cmd) ∈ requestForms (.complete payload checksum footerMagic))
    (hPayload : payload.length ≤ maxDataSize)
    (hChecksum : s.cfg.checksumMode ≠ .absent →
      checksum = some (checksumOf s.cfg (coveredBytes s.cfg reqMagic cmd payload))) :
    exec i s = .next (acceptFrame .request cmd payload s) := by
  rw [exec_requestForms s hForm, runFrame_good_request hPayload hChecksum]

theorem exec_good_response
    (hForm : (i, status) ∈ responseForms (.complete payload checksum footerMagic) ∨
      i = .respUnnamed status (.complete payload checksum footerMagic))
    (hPayload : payload.length ≤ maxDataSize)
    (hChecksum : s.cfg.checksumMode ≠ .absent →
      checksum = some (checksumOf s.cfg (coveredBytes s.cfg respMagic status payload))) :
    exec i s = .next (acceptFrame .response status payload s) := by
  have hExec : exec i s =
      .next (runFrame .response status (.complete payload checksum footerMagic) s) := by
    obtain hNamed | rfl := hForm
    · exact exec_responseForms s hNamed
    · rfl
  rw [hExec, runFrame_good_response hPayload hChecksum]

end

/-! ### The effect of an instruction by its head -/

/-- `REQ.illegal` raises its error; every other instruction is the frame of its own direction, selector
and operands, and a Request among them has a legal command. -/
theorem exec_by_head (i : Instr) (s : State) :
    exec i s = .next (raiseError .invalidCommand s) ∨
      (i.head.1 = .request → i.head.2.toNat < cmdMax) ∧
        exec i s = .next (runFrame i.head.1 i.head.2 i.tail s) := by
  cases i with
  | reqIllegal selector size => exact .inl rfl
  | turnOff tail | turnOn tail | getInfo tail | setBrightness tail | setColor tail | setEffect tail
  | getBrightness tail | getEffect tail | getOnState tail =>
    exact .inr ⟨fun _ => of_decide_eq_true rfl, rfl⟩
  | _ => exact .inr ⟨nofun, rfl⟩

/-! ### What leaves the mailbox alone -/

/-- `t` has the mailbox of `s`: the flag, both registers and the whole store. -/
structure SameMailbox (s t : State) : Prop where
  full : t.mboxFull = s.mboxFull
  cmd : t.mboxCmd = s.mboxCmd
  len : t.mboxLen = s.mboxLen
  data : t.mboxData = s.mboxData

theorem SameMailbox.refl (s : State) : SameMailbox s s := ⟨rfl, rfl, rfl, rfl⟩

theorem SameMailbox.trans {s t u : State} (h : SameMailbox s t) (h' : SameMailbox t u) :
    SameMailbox s u :=
  ⟨h'.full.trans h.full, h'.cmd.trans h.cmd, h'.len.trans h.len, h'.data.trans h.data⟩

/-- The registers, and the store cell by cell. -/
theorem SameMailbox.cells {s t : State} (h : SameMailbox s t) :
    t.mboxFull = s.mboxFull ∧ t.mboxCmd = s.mboxCmd ∧ t.mboxLen = s.mboxLen ∧
      ∀ a, t.mboxData.read a = s.mboxData.read a :=
  ⟨h.full, h.cmd, h.len, fun a => by rw [h.data]⟩

theorem raiseError_mailbox (e : FrameError) (s : State) : SameMailbox s (raiseError e s) :=
  ⟨rfl, rfl, rfl, rfl⟩

theorem runFrame_response_mailbox (status : Byte) (tail : Tail) (s : State) :
    SameMailbox s (runFrame .response status tail s) := by
  obtain ⟨e, hRun⟩ | ⟨payload, -, hRun | hRun⟩ := runFrame_cases .response status tail s <;> rw [hRun]
  · exact raiseError_mailbox e s
  · rw [acceptFrame_response]
    exact ⟨rfl, rfl, rfl, rfl⟩
  · rw [acceptFrame_response]
    exact ⟨rfl, rfl, rfl, rfl⟩

/-- A full mailbox is kept by every frame: of the cases of `exec_mailbox` the other fills an empty
one. -/
theorem exec_full_mailbox {i : Instr} {s t : State} (hFull : s.mboxFull = true)
    (h : exec i s = .next t) : SameMailbox s t := by
  obtain ⟨hFlag, hCmd, hLen, hData⟩ | ⟨hEmpty, -⟩ := exec_mailbox h
  · exact ⟨hFlag, hCmd, hLen, hData⟩
  · simp [hFull] at hEmpty

theorem staleCheck_mailbox (t : Nat) (s : State) : SameMailbox s (staleCheck t s) := by
  obtain h | h := staleCheck_cases t s <;> rw [h] <;> exact ⟨rfl, rfl, rfl, rfl⟩

/-- A received byte keeps a full mailbox, the frame that it may complete included. -/
theorem rxByte_full_mailbox {b : Byte} {t : Nat} {s s' : State} (hFull : s.mboxFull = true)
    (h : rxByte b t s = .next s') : SameMailbox s s' := by
  have hStale := staleCheck_mailbox t s
  obtain rfl | rfl | ⟨s₂, hStored, hEnd⟩ := rxByte_cases h
  · exact hStale.trans (raiseError_mailbox _ _)
  · exact hStale.trans ⟨rfl, rfl, rfl, rfl⟩
  · have hStore : SameMailbox s s₂ := by
      obtain rfl | rfl := hStored <;> exact hStale.trans ⟨rfl, rfl, rfl, rfl⟩
    obtain rfl | ⟨i, hExec⟩ := hEnd
    · exact hStore.trans ⟨rfl, rfl, rfl, rfl⟩
    · exact hStore.trans (exec_full_mailbox (hStore.full.trans hFull) hExec)

theorem popByte_full_mailbox {t : Nat} {s s' : State} (hFull : s.mboxFull = true)
    (h : popByte t s = .next s') : SameMailbox s s' := by
  obtain rfl | ⟨b, q, -, hByte⟩ := popByte_cases h
  · exact .refl _
  · have hFifo : SameMailbox s (s.withFifo q) := ⟨rfl, rfl, rfl, rfl⟩
    exact hFifo.trans (rxByte_full_mailbox hFull hByte)

theorem regHandler_mailbox (cmd : Byte) (hid : HandlerId) (s : State) :
    SameMailbox s (regHandler cmd hid s) := by
  obtain ⟨hCmd, h⟩ | h := regHandler_cases cmd hid s <;> rw [h] <;> exact ⟨rfl, rfl, rfl, rfl⟩

theorem regForward_mailbox (cmd : Byte) (target : CtxId) (s : State) :
    SameMailbox s (regForward cmd target s) := by
  obtain ⟨hCmd, h⟩ | h := regForward_cases cmd target s <;> rw [h] <;> exact ⟨rfl, rfl, rfl, rfl⟩

theorem pushByte_mailbox (b : Byte) (s : State) : SameMailbox s (pushByte b s) := by
  obtain ⟨-, h⟩ | h := pushByte_cases b s <;> rw [h] <;> exact ⟨rfl, rfl, rfl, rfl⟩

theorem handle_full_mailbox {e : Event} {s t : State} (hFull : s.mboxFull = true)
    (hPoll : ∀ answer, e ≠ .poll answer) (hReset : e ≠ .reset) (h : handle e s = .next t) :
    SameMailbox s t := by
  cases e with
  | reset => exact absurd rfl hReset
  | poll answer => exact absurd rfl (hPoll answer)
  | rxByte b tick => exact rxByte_full_mailbox hFull h
  | pop tick => exact popByte_full_mailbox hFull h
  | regHandler cmd hid =>
    obtain rfl := Host.Outcome.next.inj h
    exact regHandler_mailbox cmd hid s
  | regForward cmd target =>
    obtain rfl := Host.Outcome.next.inj h
    exact regForward_mailbox cmd target s
  | push b =>
    obtain rfl := Host.Outcome.next.inj h
    exact pushByte_mailbox b s

/-! ### The statements -/

/-- Settles O8: the frame is accepted, into the empty mailbox. -/
theorem requestsFillTheEmptyMailbox : Obligations.RequestsFillTheEmptyMailbox := by
  intro s payload checksum i cmd hForm hPayload hChecksum hEmpty
  rw [exec_good_request hForm hPayload hChecksum, acceptFrame_request, if_neg (by simp [hEmpty])]

/-- Settles O9: acceptance is `fillMailbox`, whose one run of bytes from cell 0 is read back whole, and
by `read_writeBytes` cell by cell. -/
theorem submittedPayloadByteByByte : Obligations.SubmittedPayloadByteByByte := by
  intro s payload checksum i cmd hForm hPayload hChecksum hEmpty
  refine ⟨_, exec_good_request hForm hPayload hChecksum, ?_⟩
  rw [acceptFrame_request_of_empty cmd payload hEmpty]
  refine ⟨fillMailbox_mailboxBytes s.clearBuffer cmd hPayload, fun a => ?_, fun a => rfl⟩
  simp [Memory.read_writeBytes]

/-- Settles O10: the frame is accepted, and the full mailbox drops it. -/
theorem requestsAreDroppedWhenTheMailboxIsFull :
    Obligations.RequestsAreDroppedWhenTheMailboxIsFull := by
  intro s payload checksum i cmd hForm hPayload hChecksum hFull
  rw [exec_good_request hForm hPayload hChecksum, acceptFrame_request, if_pos hFull]

/-- Settles O11: the status does not decide anything on the way to the delivery. -/
theorem responsesAreDelivered : Obligations.ResponsesAreDelivered := by
  intro s payload checksum i status hForm hPayload hChecksum
  rw [exec_good_response hForm hPayload hChecksum, acceptFrame_response]

/-- Settles O18: a frame that is judged at all is here a Response, since by `exec_by_head` a judged
Request has a legal command. -/
theorem responsesAndIllegalRequestsKeepTheMailbox :
    Obligations.ResponsesAndIllegalRequestsKeepTheMailbox := by
  intro i s t hHead h
  obtain hExec | ⟨hLegal, hExec⟩ := exec_by_head i s <;> rw [hExec] at h <;>
    obtain rfl := Host.Outcome.next.inj h
  · exact (raiseError_mailbox _ s).cells
  · have hDir : i.head.1 = .response := by
      cases hDir : i.head.1 with
      | response => rfl
      | request =>
        obtain hResponse | hIllegal := hHead
        · simp [hDir] at hResponse
        · exact absurd (hLegal hDir) (Nat.not_lt.mpr hIllegal)
    rw [hDir]
    exact (runFrame_response_mailbox _ _ s).cells

/-- Settles O56, by the case split on the event of `handle_full_mailbox`. -/
theorem pendingRequestIsNeverAltered : Obligations.PendingRequestIsNeverAltered := by
  intro s t e rest hInputs h hFull hPoll hReset
  rw [step_of_inputs hInputs] at h
  obtain ⟨hFlag, hRest⟩ := (handle_full_mailbox (s := s.withInputs rest) hFull hPoll hReset h).cells
  exact ⟨hFlag.trans hFull, hRest⟩

end Sys2Proof.Proofs

/-! SUPPORT. `POLL` and the two registrations (42_mailbox_dispatch R143 to R154): what the dispatch
multiplexer selects, what is sent, and what a table holds after a registration. -/

namespace Sys2Proof.Proofs

open Sys2Proof Sys2Proof.Machine

/-! ### The multiplexer, one lemma per port (42_mailbox_dispatch R145) -/

section

variable {s : State} {cmd : Nat} {hCmd : cmd < cmdMax} {payload : List Byte} {answer : CallAnswer}

theorem resolve_of_forward (hEn : s.cfg.forwardEn = true) (hValid : s.fwdValid[cmd] = true) :
    resolve s cmd hCmd payload answer =
      ([.fwdCall s.fwdTarget[cmd] (BitVec.ofNat 8 cmd) payload], answer) := by
  simp [resolve, hEn, hValid]

theorem forward_not_in_effect (h : s.cfg.forwardEn = false ∨ s.fwdValid[cmd] = false) :
    (s.cfg.forwardEn && s.fwdValid[cmd]) = false := by
  obtain h | h := h <;> simp [h]

theorem resolve_of_handler (hNoForward : s.cfg.forwardEn = false ∨ s.fwdValid[cmd] = false)
    (hValid : s.handlerValid[cmd] = true) :
    resolve s cmd hCmd payload answer =
      ([.handlerCall s.handlerId[cmd] (BitVec.ofNat 8 cmd) payload], answer) := by
  simp [resolve, forward_not_in_effect hNoForward, hValid]

theorem resolve_of_none (hNoForward : s.cfg.forwardEn = false ∨ s.fwdValid[cmd] = false)
    (hInvalid : s.handlerValid[cmd] = false) :
    resolve s cmd hCmd payload answer = ([], .err notReadyCode) := by
  simp [resolve, forward_not_in_effect hNoForward, hInvalid]

end

/-! ### The step of a poll -/

/-- A `POLL` of a readable Request empties the mailbox, emits the call that the multiplexer makes and
sends the mapped result. -/
theorem step_poll_of_resolve {s : State} {answer result : CallAnswer} {rest : List Event}
    {payload : List Byte} {calls : List OutEvent} {hCmd : s.mboxCmd.toNat < cmdMax}
    (hInputs : s.inputs = .poll answer :: rest) (hFull : s.mboxFull = true)
    (hBytes : s.mailboxBytes = .ok payload)
    (hResolve : resolve s s.mboxCmd.toNat hCmd payload answer = (calls, result)) :
    step s = .next (sendResponse (mapResult s.cfg result).1 (mapResult s.cfg result).2
      ((s.withInputs rest).emptyMailbox.emit calls)) := by
  have hDispatch : dispatch s.mboxCmd.toNat hCmd payload answer (s.withInputs rest) =
      sendResponse (mapResult s.cfg (resolve s s.mboxCmd.toNat hCmd payload answer).2).1
        (mapResult s.cfg (resolve s s.mboxCmd.toNat hCmd payload answer).2).2
        ((s.withInputs rest).emptyMailbox.emit
          (resolve s s.mboxCmd.toNat hCmd payload answer).1) := rfl
  rw [hResolve] at hDispatch
  calc step s
    _ = poll answer (s.withInputs rest) := step_of_inputs hInputs
    _ = .next (dispatch s.mboxCmd.toNat hCmd payload answer (s.withInputs rest)) :=
      poll_of_full (s := s.withInputs rest) hFull hBytes hCmd
    _ = _ := by rw [hDispatch]

/-- Settles O34: `POLL` returns before it reads anything but the flag. -/
theorem pollWithNothingPendingDoesNothing : Obligations.PollWithNothingPendingDoesNothing := by
  intro s answer rest hInputs hEmpty
  rw [step_of_inputs hInputs]
  exact if_pos hEmpty

/-- Settles O35: the forward port comes first in the multiplexer. -/
theorem pollForwardsBeforeLookingForAHandler : Obligations.PollForwardsBeforeLookingForAHandler := by
  intro s answer rest payload hCmd hInputs hFull hBytes hEn hValid
  rw [step_poll_of_resolve hInputs hFull hBytes (resolve_of_forward (hCmd := hCmd) hEn hValid),
    BitVec.ofNat_toNat, BitVec.setWidth_eq]
  cases answer <;> rfl

/-- Settles O36: without a forward rule in effect the handler port is selected. -/
theorem pollCallsTheHandler : Obligations.PollCallsTheHandler := by
  intro s answer rest payload hCmd hInputs hFull hBytes hNoForward hValid
  rw [step_poll_of_resolve hInputs hFull hBytes (resolve_of_handler (hCmd := hCmd) hNoForward hValid),
    BitVec.ofNat_toNat, BitVec.setWidth_eq]
  cases answer <;> rfl

/-- Settles O37: with neither port the multiplexer answers `NotReady` and makes no call. -/
theorem pollAnswersNotReady : Obligations.PollAnswersNotReady := by
  intro s answer rest payload hCmd hInputs hFull hBytes hNoForward hInvalid
  rw [step_poll_of_resolve hInputs hFull hBytes (resolve_of_none (hCmd := hCmd) hNoForward hInvalid),
    State.emit, List.append_nil]
  rfl

/-! ### The registrations -/

/-- An entry of a table after one entry was written. -/
theorem getElem_set_entry {α : Type} (table : Vector α cmdMax) {cmd c : Nat} (x : α)
    (hCmd : cmd < cmdMax) (h : c < cmdMax) :
    (table.set cmd x hCmd)[c] = if c = cmd then x else table[c] := by
  rw [Vector.getElem_set]
  exact if_congr eq_comm rfl rfl

/-- Setting a valid bit clears none. -/
theorem getElem_set_true {valid : Vector Bool cmdMax} {cmd c : Nat} (hCmd : cmd < cmdMax)
    {h : c < cmdMax} (hValid : valid[c] = true) : (valid.set cmd true hCmd)[c] = true := by
  rw [getElem_set_entry, hValid, ite_self]

theorem regHandler_keeps_valid {s : State} (cmd : Byte) (hid : HandlerId) {c : Nat} {h : c < cmdMax}
    (hValid : s.handlerValid[c] = true) : (regHandler cmd hid s).handlerValid[c] = true := by
  obtain ⟨hCmd, hReg⟩ | hReg := regHandler_cases cmd hid s
  · simp only [hReg]
    exact getElem_set_true hCmd hValid
  · simp only [hReg]
    exact hValid

theorem regForward_keeps_valid {s : State} (cmd : Byte) (target : CtxId) {c : Nat} {h : c < cmdMax}
    (hValid : s.fwdValid[c] = true) : (regForward cmd target s).fwdValid[c] = true := by
  obtain ⟨hCmd, hReg⟩ | hReg := regForward_cases cmd target s
  · simp only [hReg]
    exact getElem_set_true hCmd hValid
  · simp only [hReg]
    exact hValid

/-- Every event but `RESET` keeps the valid bits that are set. -/
theorem handle_keeps_valid {e : Event} {s t : State} (h : handle e s = .next t) (hReset : e ≠ .reset)
    {c : Nat} (hc : c < cmdMax) :
    (s.handlerValid[c] = true → t.handlerValid[c] = true) ∧
      (s.fwdValid[c] = true → t.fwdValid[c] = true) := by
  obtain ⟨he, -⟩ | ⟨cmd, hid, -, rfl⟩ | ⟨cmd, target, -, rfl⟩ | hSetup := handle_setup_cases h
  · exact absurd he hReset
  · obtain ⟨-, hForward, -⟩ := regHandler_keeps cmd hid s
    exact ⟨regHandler_keeps_valid cmd hid, by simp only [hForward, imp_self]⟩
  · obtain ⟨-, hHandler, -⟩ := regForward_keeps cmd target s
    exact ⟨by simp only [hHandler, imp_self], regForward_keeps_valid cmd target⟩
  · simp only [hSetup.handlerValid, hSetup.fwdValid, imp_self, and_self]

section

variable {s : State} {cmd : Byte} {rest : List Event}

theorem step_regHandler {hid : HandlerId} (hInputs : s.inputs = .regHandler cmd hid :: rest) :
    step s = .next (regHandler cmd hid (s.withInputs rest)) := step_of_inputs hInputs

theorem step_regForward {target : CtxId} (hInputs : s.inputs = .regForward cmd target :: rest) :
    step s = .next (regForward cmd target (s.withInputs rest)) := step_of_inputs hInputs

theorem step_regHandler_of_ge {hid : HandlerId} (hInputs : s.inputs = .regHandler cmd hid :: rest)
    (hCmd : cmdMax ≤ cmd.toNat) :
    step s = .next { s with inputs := rest, out := s.out ++ [.log .cfgRefused] } := by
  rw [step_regHandler hInputs, regHandler_of_ge hid hCmd]
  rfl

theorem step_regForward_of_ge {target : CtxId} (hInputs : s.inputs = .regForward cmd target :: rest)
    (hCmd : cmdMax ≤ cmd.toNat) :
    step s = .next { s with inputs := rest, out := s.out ++ [.log .cfgRefused] } := by
  rw [step_regForward hInputs, regForward_of_ge target hCmd]
  rfl

end

/-- Settles O39, by `getElem_set_entry` for the valid bits and for the tokens. -/
theorem registerHandlerWritesItsEntry : Obligations.RegisterHandlerWritesItsEntry := by
  intro s cmd hid rest hInputs
  refine ⟨fun hCmd => ?_, step_regHandler_of_ge hInputs⟩
  rw [step_regHandler hInputs, regHandler_of_lt hid hCmd]
  exact ⟨_, rfl, fun c h => ⟨getElem_set_entry _ true hCmd h, getElem_set_entry _ hid hCmd h⟩, rfl⟩

/-- Settles O40, by `getElem_set_entry` for the valid bits and for the targets. -/
theorem registerForwardWritesItsEntry : Obligations.RegisterForwardWritesItsEntry := by
  intro s cmd target rest hInputs
  refine ⟨fun hCmd => ?_, step_regForward_of_ge hInputs⟩
  rw [step_regForward hInputs, regForward_of_lt target hCmd]
  exact ⟨_, rfl, fun c h => ⟨getElem_set_entry _ true hCmd h, getElem_set_entry _ target hCmd h⟩, rfl⟩

/-- Settles O41: the refusals of O39 and O40, and `handle_keeps_valid` for every event but `RESET`. -/
theorem outOfRangeRegistrationRefusedNoneRemoved :
    Obligations.OutOfRangeRegistrationRefusedNoneRemoved := by
  constructor
  · rintro s e rest cmd hInputs hCmd (⟨hid, rfl⟩ | ⟨target, rfl⟩)
    · exact step_regHandler_of_ge hInputs hCmd
    · exact step_regForward_of_ge hInputs hCmd
  · intro s t c hc h hReset
    cases hInputs : s.inputs with
    | nil =>
      rw [step_idle hInputs] at h
      obtain rfl := Host.Outcome.next.inj h
      exact ⟨id, id⟩
    | cons e rest =>
      rw [step_of_inputs hInputs] at h
      exact handle_keeps_valid h (fun he => hReset rest (by rw [hInputs, he])) hc

end Sys2Proof.Proofs

/-! SUPPORT. A Request from its last byte to its handler, and the frames that the text of 43_commands
writes out. -/

namespace Sys2Proof.Proofs

open Sys2Proof Sys2Proof.Machine

/-- A good Request stands in the empty mailbox it met. -/
theorem exec_good_request_of_empty {s : State} {payload : List Byte} {checksum : Option Word}
    {i : Instr} {cmd : Byte} (hForm : (i, cmd) ∈ requestForms (.complete payload checksum footerMagic))
    (hPayload : payload.length ≤ maxDataSize)
    (hChecksum : s.cfg.checksumMode ≠ .absent →
      checksum = some (checksumOf s.cfg (coveredBytes s.cfg reqMagic cmd payload)))
    (hEmpty : s.mboxFull = false) :
    exec i s = .next ((s.clearBuffer.fillMailbox cmd payload).emit
      [.rxOutcome (.frame .request cmd payload)]) := by
  rw [exec_good_request hForm hPayload hChecksum, acceptFrame_request_of_empty cmd payload hEmpty]

/-- Settles O38: the frame is accepted into the empty mailbox, where the `POLL` of O36 finds its payload
whole. Acceptance writes neither the tables nor the answers of the transport. -/
theorem requestReachesItsHandler : Obligations.RequestReachesItsHandler := by
  intro s payload checksum i cmd answer hCmd hForm hPayload hChecksum hEmpty hNoForward hValid response
    sent
  have hWhole : (s.clearBuffer.fillMailbox cmd payload).mailboxBytes = .ok payload :=
    fillMailbox_mailboxBytes s.clearBuffer cmd hPayload
  refine ⟨_, _, exec_good_request_of_empty hForm hPayload hChecksum hEmpty,
    pollCallsTheHandler _ answer [] payload hCmd rfl rfl hWhole hNoForward hValid, rfl, rfl, ?out⟩
  case out => exact congrArg (· ++ sent.1) (List.append_assoc s.out [_] [_])

/-- Bytes that a well-formed instruction encodes to, and nothing behind them, decode to it. -/
theorem decode_of_encode_eq {c : Config} {i : Instr} {bytes : List Byte} (hWell : i.wellFormed c = true)
    (hBytes : encode c i = bytes) : decode c bytes = .ok (i, []) := by
  have hDecode := encodedInstructionDecodesToItself c i [] hWell
  rwa [hBytes, List.append_nil] at hDecode

/-- Settles O3: each of the four byte strings is the encoding of its well-formed instruction, which O1
decodes. -/
theorem listedFramesDecode : Obligations.ListedFramesDecode :=
  ⟨decode_of_encode_eq rfl rfl, decode_of_encode_eq rfl rfl, decode_of_encode_eq rfl rfl,
    decode_of_encode_eq rfl rfl⟩

end Sys2Proof.Proofs

/-! SUPPORT. Sending a Response (44_transmit): the write loop by the transport's answers, and what every
event appends to the trace. -/

namespace Sys2Proof.Proofs

open Sys2Proof Sys2Proof.Machine

/-! ### The write loop, one lemma per answer (44_transmit R201) -/

section

variable (delay retries : Nat) (frame : List Byte) (answers : List WriteAnswer)

theorem writeLoop_ok :
    writeLoop delay frame retries (.ok :: answers) = ([.txAttempt frame], answers) := by
  cases retries <;> rfl

theorem writeLoop_err :
    writeLoop delay frame retries (.err :: answers) =
      ([.txAttempt frame, .log .txError], answers) := by
  cases retries <;> rfl

theorem writeLoop_busy_last :
    writeLoop delay frame 0 (.busy :: answers) = ([.txAttempt frame, .log .txGiveUp], answers) := rfl

theorem writeLoop_busy_retry :
    writeLoop delay frame (retries + 1) (.busy :: answers) =
      (.txAttempt frame :: .txDelay delay :: (writeLoop delay frame retries answers).1,
        (writeLoop delay frame retries answers).2) := rfl

/-- `k` answers `Busy` within the budget cost `k` attempts, each followed by a delay, and leave the
rest of the budget. -/
theorem writeLoop_replicate_busy (k : Nat) :
    writeLoop delay frame (retries + k) (List.replicate k .busy ++ answers) =
      ((List.replicate k [OutEvent.txAttempt frame, .txDelay delay]).flatten ++
        (writeLoop delay frame retries answers).1, (writeLoop delay frame retries answers).2) := by
  induction k with
  | zero => rfl
  | succ k ih =>
    rw [← Nat.add_assoc, List.replicate_succ, List.cons_append, writeLoop_busy_retry, ih]
    rfl

/-- One delay stands between two attempts, and no more delays than re-attempts are made. -/
theorem writeLoop_counts :
    (writeLoop delay frame retries answers).1.count (.txAttempt frame) =
        (writeLoop delay frame retries answers).1.count (.txDelay delay) + 1 ∧
      (writeLoop delay frame retries answers).1.count (.txDelay delay) ≤ retries := by
  fun_induction writeLoop delay frame retries answers with
  | case1 | case2 | case3 | case4 => simp
  | case5 retries answers ih =>
    obtain ⟨hAttempts, hDelays⟩ := ih
    simp only [List.count_cons, beq_self_eq_true, if_true, beq_iff_eq, reduceCtorEq, if_false]
    omega

end

/-- Settles O42: the first `TX_RETRY_MAX` answers use up the budget, and the next one ends the send. -/
theorem sendGivesUpAfterItsBudget : Obligations.SendGivesUpAfterItsBudget := by
  intro delay retries frame answers
  have hLoop := writeLoop_replicate_busy delay 0 frame (.busy :: answers) retries
  rwa [Nat.zero_add, writeLoop_busy_last, List.append_cons, ← List.replicate_succ'] at hLoop

/-- Settles O43: after the `k` answers `Busy` some budget is left, and the next answer decides. -/
theorem sendEndsAtTheFirstAnswerThatIsNotBusy :
    Obligations.SendEndsAtTheFirstAnswerThatIsNotBusy := by
  intro delay retries k frame answers hk
  obtain ⟨left, rfl⟩ := Nat.exists_eq_add_of_le' hk
  rw [writeLoop_replicate_busy, writeLoop_replicate_busy, writeLoop_ok, writeLoop_err]
  exact ⟨rfl, rfl⟩

/-- Settles O44, by the counts of the write loop and the list of its events. -/
theorem sendIsBounded : Obligations.SendIsBounded := by
  intro delay retries frame answers
  dsimp only
  obtain ⟨hAttempts, hDelays⟩ := writeLoop_counts delay retries frame answers
  exact ⟨by omega, by omega, by omega, fun e => mem_writeLoop⟩

/-! ### What an event appends to the trace -/

/-- Every attempt among these events is of a serialised Response whose payload fits the response buffer
(44_transmit R200, R207). -/
def SendsOnlyResponses (c : Config) (events : List OutEvent) : Prop :=
  ∀ frame, OutEvent.txAttempt frame ∈ events →
    ∃ status payload, frame = serializeResponse c status payload ∧ payload.length ≤ c.respBufCap

/-- From `s` to `t` the configuration stays and the trace only grows, by no attempt but of Responses. -/
structure AppendsResponses (s t : State) : Prop where
  cfg : t.cfg = s.cfg
  out : ∃ new, t.out = s.out ++ new ∧ SendsOnlyResponses s.cfg new

theorem AppendsResponses.trans {s t u : State} (h : AppendsResponses s t)
    (h' : AppendsResponses t u) : AppendsResponses s u := by
  obtain ⟨hCfg, new, hOut, hNew⟩ := h
  obtain ⟨hCfg', more, hOut', hMore⟩ := h'
  refine ⟨hCfg'.trans hCfg, new ++ more, by rw [hOut', hOut, List.append_assoc], fun frame hMem => ?_⟩
  obtain hMem | hMem := List.mem_append.mp hMem
  · exact hNew frame hMem
  · exact hCfg ▸ hMore frame hMem

/-- Events without an attempt satisfy the claim. -/
theorem appendsResponses_of_silent {s t : State} {new : List OutEvent} (hCfg : t.cfg = s.cfg)
    (hOut : t.out = s.out ++ new) (hNew : ∀ frame, OutEvent.txAttempt frame ∉ new) :
    AppendsResponses s t :=
  ⟨hCfg, new, hOut, fun frame hMem => absurd hMem (hNew frame)⟩

theorem appendsResponses_of_out_eq {s t : State} (hCfg : t.cfg = s.cfg) (hOut : t.out = s.out) :
    AppendsResponses s t :=
  appendsResponses_of_silent hCfg (hOut.trans (List.append_nil _).symm) (fun _ => List.not_mem_nil)

theorem emit_appendsResponses (s : State) {events : List OutEvent}
    (h : ∀ frame, OutEvent.txAttempt frame ∉ events) : AppendsResponses s (s.emit events) :=
  appendsResponses_of_silent rfl rfl h

/-- The one place where attempts come from. -/
theorem sendResponse_appendsResponses (s : State) (status : Byte) {payload : List Byte}
    (h : payload.length ≤ s.cfg.respBufCap) : AppendsResponses s (sendResponse status payload s) := by
  refine ⟨rfl, _, sendResponse_out s status payload, fun frame hMem => ⟨status, payload, ?_, h⟩⟩
  simpa using mem_writeLoop hMem

/-! ### Frames -/

/-- An error Response has the empty payload. -/
theorem raiseError_appendsResponses (e : FrameError) (s : State) :
    AppendsResponses s (raiseError e s) := by
  have hLog : AppendsResponses s (s.clearBuffer.emit [.log (.frameError e.code)]) :=
    appendsResponses_of_silent rfl rfl (by simp)
  have hSend : AppendsResponses (s.clearBuffer.emit [.log (.frameError e.code)]) (enterError e s) :=
    sendResponse_appendsResponses _ e.code (Nat.zero_le _)
  exact (hLog.trans hSend).trans (emit_appendsResponses (enterError e s) (by simp))

theorem acceptFrame_appendsResponses (dir : Direction) (selector : Byte) (payload : List Byte)
    (s : State) : AppendsResponses s (acceptFrame dir selector payload s) := by
  refine appendsResponses_of_silent (acceptFrame_frameEnds dir selector payload s).setup.cfg
    ((acceptFrame_out dir selector payload s).trans (List.append_assoc ..)) (fun frame => ?_)
  cases dir with
  | request => cases s.mboxFull <;> simp [handedOn]
  | response => simp [handedOn]

theorem exec_appendsResponses {i : Instr} {s t : State} (h : exec i s = .next t) :
    AppendsResponses s t := by
  obtain ⟨e, rfl⟩ | ⟨dir, selector, payload, u, rfl | rfl, rfl⟩ := exec_ends h
  · exact raiseError_appendsResponses e s
  · exact acceptFrame_appendsResponses dir selector payload u
  · exact (emit_appendsResponses s (by simp)).trans
      (acceptFrame_appendsResponses dir selector payload _)

/-! ### Events -/

theorem staleCheck_appendsResponses (t : Nat) (s : State) : AppendsResponses s (staleCheck t s) := by
  obtain h | h := staleCheck_cases t s <;> rw [h]
  · exact appendsResponses_of_out_eq rfl rfl
  · exact appendsResponses_of_silent rfl rfl (by simp)

theorem rxByte_appendsResponses {b : Byte} {t : Nat} {s s' : State} (h : rxByte b t s = .next s') :
    AppendsResponses s s' := by
  refine (staleCheck_appendsResponses t s).trans ?_
  obtain rfl | rfl | ⟨s₂, hStored, hEnd⟩ := rxByte_cases h
  · exact raiseError_appendsResponses _ _
  · have hStore : AppendsResponses (staleCheck t s) ((staleCheck t s).storeByte b) :=
      appendsResponses_of_out_eq rfl rfl
    exact hStore.trans (raiseError_appendsResponses _ _)
  · have hStore : AppendsResponses (staleCheck t s) s₂ := by
      obtain rfl | rfl := hStored <;> exact appendsResponses_of_out_eq rfl rfl
    obtain rfl | ⟨i, hExec⟩ := hEnd
    · exact hStore.trans (appendsResponses_of_silent rfl rfl (by simp))
    · exact hStore.trans (exec_appendsResponses hExec)

/-- The call the multiplexer emits is no attempt. -/
theorem txAttempt_not_mem_resolve (s : State) (cmd : Nat) (h : cmd < cmdMax) (payload : List Byte)
    (answer : CallAnswer) (frame : List Byte) :
    OutEvent.txAttempt frame ∉ (resolve s cmd h payload answer).1 := by
  obtain ⟨-, -, hCall⟩ | ⟨-, -, hCall⟩ | ⟨-, -, hCall⟩ := resolve_cases s cmd h payload answer <;>
    simp [hCall]

/-- A dispatch sends what `MapResult` cut to the response buffer. -/
theorem dispatch_appendsResponses (cmd : Nat) (h : cmd < cmdMax) (payload : List Byte)
    (answer : CallAnswer) (s : State) : AppendsResponses s (dispatch cmd h payload answer s) := by
  have hCall : AppendsResponses s (s.emptyMailbox.emit (resolve s cmd h payload answer).1) :=
    appendsResponses_of_silent rfl rfl (txAttempt_not_mem_resolve s cmd h payload answer)
  exact hCall.trans (sendResponse_appendsResponses _ _ (mapResult_length s.cfg _))

theorem poll_appendsResponses {answer : CallAnswer} {s s' : State} (h : poll answer s = .next s') :
    AppendsResponses s s' := by
  obtain ⟨-, rfl⟩ | ⟨payload, hCmd, -, -, rfl⟩ := poll_cases h
  · exact appendsResponses_of_out_eq rfl rfl
  · exact dispatch_appendsResponses _ hCmd payload answer s

theorem pushByte_appendsResponses (b : Byte) (s : State) : AppendsResponses s (pushByte b s) := by
  obtain ⟨-, h⟩ | h := pushByte_cases b s <;> rw [h]
  · exact appendsResponses_of_out_eq rfl rfl
  · exact emit_appendsResponses s (by simp)

theorem popByte_appendsResponses {t : Nat} {s s' : State} (h : popByte t s = .next s') :
    AppendsResponses s s' := by
  obtain rfl | ⟨b, q, -, hByte⟩ := popByte_cases h
  · exact appendsResponses_of_out_eq rfl rfl
  · have hTaken : AppendsResponses s (s.withFifo q) := appendsResponses_of_out_eq rfl rfl
    exact hTaken.trans (rxByte_appendsResponses hByte)

theorem regHandler_appendsResponses (cmd : Byte) (hid : HandlerId) (s : State) :
    AppendsResponses s (regHandler cmd hid s) := by
  obtain ⟨hCmd, h⟩ | h := regHandler_cases cmd hid s <;> rw [h]
  · exact appendsResponses_of_out_eq rfl rfl
  · exact emit_appendsResponses s (by simp)

theorem regForward_appendsResponses (cmd : Byte) (target : CtxId) (s : State) :
    AppendsResponses s (regForward cmd target s) := by
  obtain ⟨hCmd, h⟩ | h := regForward_cases cmd target s <;> rw [h]
  · exact appendsResponses_of_out_eq rfl rfl
  · exact emit_appendsResponses s (by simp)

theorem handle_appendsResponses {e : Event} {s t : State} (h : handle e s = .next t)
    (hReset : e ≠ .reset) : AppendsResponses s t := by
  cases e with
  | reset => exact absurd rfl hReset
  | rxByte b tick => exact rxByte_appendsResponses h
  | pop tick => exact popByte_appendsResponses h
  | poll answer => exact poll_appendsResponses h
  | regHandler cmd hid =>
    obtain rfl := Host.Outcome.next.inj h
    exact regHandler_appendsResponses cmd hid s
  | regForward cmd target =>
    obtain rfl := Host.Outcome.next.inj h
    exact regForward_appendsResponses cmd target s
  | push b =>
    obtain rfl := Host.Outcome.next.inj h
    exact pushByte_appendsResponses b s

/-- Settles O45: an idle step appends nothing, and `handle_appendsResponses` covers every event but
`RESET`. -/
theorem onlyResponsesAreSent : Obligations.OnlyResponsesAreSent := by
  intro s t h hReset
  cases hInputs : s.inputs with
  | nil =>
    rw [step_idle hInputs] at h
    obtain rfl := Host.Outcome.next.inj h
    exact (appendsResponses_of_out_eq rfl rfl).out
  | cons e rest =>
    rw [step_of_inputs hInputs] at h
    exact (handle_appendsResponses h (fun he => hReset rest (by rw [hInputs, he]))).out

end Sys2Proof.Proofs

/-! SUPPORT. The frame-error sequence (60_exceptions R232), and the errors that end in it: a command or a
magic the header test does not know, and a wrong footer. -/

namespace Sys2Proof.Proofs

open Sys2Proof Sys2Proof.Machine

/-! ### What raises an error -/

/-- The footer is judged before the checksum (60_exceptions R231). -/
theorem runFrame_wrongFooter {dir : Direction} {selector : Byte} {payload : List Byte}
    {checksum : Option Word} {footer : Word} {s : State} (hPayload : payload.length ≤ maxDataSize)
    (hFooter : footer ≠ footerMagic) :
    runFrame dir selector (.complete payload checksum footer) s = raiseError .invalidFooter s := by
  simp only [runFrame, if_neg (Nat.not_lt.mpr hPayload), if_pos hFooter]

/-- A magic is read off the first four bytes. -/
theorem word32_append (o : WireOrder) {bytes : List Byte} (rest : List Byte) (h : 4 ≤ bytes.length) :
    word32 o (bytes ++ rest) = word32 o bytes := by
  match bytes, h with
  | _ :: _ :: _ :: _ :: _, _ => cases o <;> rfl

/-- The magic is judged before the selector and the size (60_exceptions R231). -/
theorem judgeHeader_badMagic {c : Config} {hdr : List Byte} (hReq : word32 c.wireOrder hdr ≠ reqMagic)
    (hResp : word32 c.wireOrder hdr ≠ respMagic) : judgeHeader c hdr = .badMagic := by
  simp only [judgeHeader, if_neg hReq, if_neg hResp]

/-- The byte that completes a header of unknown magic. -/
theorem headerCheck_of_badMagic {t : Nat} {s : State} (hVal : s.headerValidated = false)
    (hLen : headerSize ≤ s.len.toNat) (hHeader : s.header = some .badMagic) :
    headerCheck t s = .next (raiseError .invalidHeader s) := by
  obtain ⟨hdr, hBytes, hJudge⟩ := header_eq_some.mp hHeader
  rw [headerCheck_seven hVal hLen hBytes, hJudge]

/-! ### The statements -/

/-- Settles O19: the codes and the sequence are those of `FrameError.code` and `raiseError`. -/
theorem frameErrorSequence : Obligations.FrameErrorSequence :=
  ⟨⟨rfl, rfl, rfl, rfl, rfl⟩, fun _ _ => rfl⟩

/-- Settles O12, as the frame-error sequence of `InvalidCommand`. -/
theorem illegalCommandRaisesInvalidCommand : Obligations.IllegalCommandRaisesInvalidCommand := by
  intro s selector size
  have hExec : exec (.reqIllegal selector size) s = .next (raiseError .invalidCommand s) := rfl
  rw [hExec, frameErrorSequence.2]
  rfl

/-- Settles O14, as the frame-error sequence of `InvalidFooter`. -/
theorem wrongFooterRaisesInvalidFooter : Obligations.WrongFooterRaisesInvalidFooter := by
  intro s payload checksum footer unnamed i dir selector hForm hPayload hFooter
  rw [exec_frameForms s hForm, runFrame_wrongFooter hPayload hFooter, frameErrorSequence.2]
  rfl

/-- Settles O24: with the byte stored, the header is judged by its first four bytes. -/
theorem badMagicRaisesInvalidHeader : Obligations.BadMagicRaisesInvalidHeader := by
  intro s b t rest hdr hInputs hFresh hLen hVal hBytes hReq hResp
  have hSix : s.len.toNat = 6 := (count_eq_iff (by decide)).mp hLen
  have hRoom : s.len.toNat < capacity s.cfg := room_of_short (by rw [hSix]; decide)
  have hSeven := storeByte_len_toNat (s := s.withInputs rest) b hRoom
  have hMagic : word32 s.cfg.wireOrder (hdr ++ [b]) = word32 s.cfg.wireOrder hdr :=
    word32_append _ _ (by rw [(Memory.readBytes_eq_some.mp hBytes).1]; decide)
  have hHeader : ((s.withInputs rest).storeByte b).header = some .badMagic :=
    header_eq_some.mpr ⟨hdr ++ [b], storeByte_bufBytes (s := s.withInputs rest) b hSix hBytes,
      judgeHeader_badMagic (hMagic ▸ hReq) (hMagic ▸ hResp)⟩
  calc step s
    _ = headerCheck t ((s.withInputs rest).storeByte b) := step_of_room hInputs hFresh hRoom
    _ = .next (raiseError .invalidHeader ((s.withInputs rest).storeByte b)) :=
      headerCheck_of_badMagic hVal (hSeven.trans (congrArg (· + 1) hSix)).ge hHeader
    _ = _ := by
      rw [storeByte_at (s := s.withInputs rest) b hLen (by decide), frameErrorSequence.2, hVal]
      rfl

end Sys2Proof.Proofs

/-! SUPPORT. Progress: in a state that meets the invariant every read finds a written cell and every
decode an instruction, so no event stops the block (60_exceptions R236, 70_reset_and_hazards R262). -/

namespace Sys2Proof.Proofs

open Sys2Proof Sys2Proof.Machine

/-! ### Every read finds its bytes -/

theorem bufBytes_of_written {s : State} {n : Nat} (h : ∀ i < s.len.toNat, (s.buf.read i).isSome)
    (hn : n ≤ s.len.toNat) : ∃ bytes, s.bufBytes n = .ok bytes ∧ bytes.length = n := by
  obtain ⟨bytes, hRead, hLength⟩ := Memory.readBytes_isSome (m := s.buf) (a := 0) (n := n)
    fun i hi => by
      rw [Nat.zero_add]
      exact h i (hi.trans_le hn)
  exact ⟨bytes, bufBytes_ok.mpr hRead, hLength⟩

theorem mailboxBytes_of_inv {s : State} (h : s.Inv) (hFull : s.mboxFull = true) :
    ∃ payload, s.mailboxBytes = .ok payload := by
  obtain ⟨-, hLen, hWritten⟩ := h.mailbox hFull
  obtain ⟨payload, hRead, -⟩ := Memory.readBytes_isSome (m := s.mboxData) (a := 0)
    (n := s.mboxLen.toNat) fun i hi => by
      rw [Nat.zero_add]
      exact hWritten i hi
  exact ⟨payload, by simp only [State.mailboxBytes, if_neg (Nat.not_lt.mpr hLen), hRead]⟩

/-! ### A received byte -/

/-- Behind a legal header a whole frame is decoded and run. -/
theorem completionCheck_of_whole {t : Nat} {s : State} {dir : Direction} {selector : Byte}
    {size : Half} {bytes : List Byte} (hVal : s.headerValidated = true)
    (hHeader : s.header = some (.legal dir selector size))
    (hWhole : frameLength s.cfg size.toNat ≤ s.len.toNat)
    (hBytes : s.bufBytes (frameLength s.cfg size.toNat) = .ok bytes) :
    completionCheck t s = exec (instrOf dir selector (completeTail s.cfg size.toNat bytes)) s := by
  obtain ⟨hdr, hHdr, hJudge⟩ := header_eq_some.mp hHeader
  obtain ⟨-, -, hSize, -, -⟩ := judgeHeader_legal hJudge
  obtain ⟨hLength, -⟩ := Memory.readBytes_eq_some.mp (bufBytes_ok.mp hBytes)
  have hLong : headerSize ≤ frameLength s.cfg size.toNat := by
    rw [headerSize_eq, frameLength_eq]
    omega
  have hTake : bytes.take headerSize = hdr :=
    Except.ok.inj ((bufBytes_take hBytes hLong).symm.trans hHdr)
  have hLegal : judgeHeader s.cfg bytes = .legal dir selector size :=
    (judgeHeader_take s.cfg bytes (hLength ▸ hLong)).symm.trans (hTake ▸ hJudge)
  rw [completionCheck_of_header hVal hHdr hSize, if_neg (Nat.not_lt.mpr hWhole)]
  simp only [hBytes, decode_of_legal hLegal hLength.ge]

theorem completionCheck_total {t : Nat} {s : State} {dir : Direction} {selector : Byte} {size : Half}
    (h : InvButHeader s) (hVal : s.headerValidated = true)
    (hHeader : s.header = some (.legal dir selector size)) :
    ∃ s', completionCheck t s = .next s' := by
  obtain hShort | hWhole := Nat.lt_or_ge s.len.toNat (frameLength s.cfg size.toNat)
  · exact ⟨_, completionCheck_of_incomplete hVal hHeader hShort⟩
  · obtain ⟨bytes, hBytes, -⟩ := bufBytes_of_written h.bufWritten hWhole
    rw [completionCheck_of_whole hVal hHeader hWhole hBytes]
    exact exec_total _ s

/-- The tests after a store, by the phase, as in `headerCheck_inv`. -/
theorem headerCheck_total {t : Nat} {s : State} (h : InvButHeader s)
    (hHeader : s.headerValidated = true →
      ∃ dir selector size, s.header = some (.legal dir selector size)) :
    ∃ s', headerCheck t s = .next s' := by
  cases hVal : s.headerValidated with
  | true =>
    obtain ⟨dir, selector, size, hLegal⟩ := hHeader hVal
    rw [headerCheck_validated hVal]
    exact completionCheck_total h hVal hLegal
  | false =>
    obtain hShort | hLen := Nat.lt_or_ge s.len.toNat headerSize
    · exact ⟨_, headerCheck_short hVal hShort⟩
    · obtain ⟨hdr, hBytes, -⟩ := bufBytes_of_written h.bufWritten hLen
      rw [headerCheck_seven hVal hLen hBytes]
      cases hJudge : judgeHeader s.cfg hdr with
      | badMagic => exact ⟨_, rfl⟩
      | badCommand selector size => exact exec_total _ s
      | tooLarge dir selector size => exact exec_total _ s
      | legal dir selector size =>
        exact completionCheck_total (s := s.validateHeader) ⟨h.cleared, h.bufWritten, h.lenBound⟩ rfl
          (header_eq_some.mpr ⟨hdr, hBytes, hJudge⟩)

/-- Behind a validated header the stored byte leaves the legal verdict on it. -/
theorem storeByte_header_legal {s : State} (h : s.Inv) (b : Byte) (hVal : s.headerValidated = true) :
    ∃ dir selector size, (s.storeByte b).header = some (.legal dir selector size) := by
  have hLen : headerSize ≤ s.len.toNat := by simpa [hVal] using h.validated
  obtain ⟨dir, selector, size, hLegal, -⟩ := headerFits_iff.mp (h.header hVal)
  exact ⟨dir, selector, size, (storeByte_header b hLen).trans hLegal⟩

theorem rxByte_total {s : State} (h : s.Inv) (b : Byte) (t : Nat) : ∃ s', rxByte b t s = .next s' := by
  have hFresh := staleCheck_inv h t
  have hRoom := room_of_inv hFresh
  have hStored : rxByte b t s = headerCheck t ((staleCheck t s).storeByte b) := by
    simp only [rxByte, appendByte_eq_some.mpr ⟨hRoom, rfl⟩]
  rw [hStored]
  exact headerCheck_total (storeByte_invButHeader hFresh b hRoom) (storeByte_header_legal hFresh b)

theorem popByte_total {s : State} (h : s.Inv) (t : Nat) : ∃ s', popByte t s = .next s' := by
  cases hFifo : s.rxFifo with
  | nil => exact ⟨s, popByte_of_empty t hFifo⟩
  | cons b q =>
    have hDepth := h.fifo
    rw [hFifo, List.length_cons] at hDepth
    rw [popByte_of_cons t hFifo]
    exact rxByte_total (withFifo_inv h (by omega)) b t

/-! ### Every event -/

theorem poll_total {s : State} (h : s.Inv) (answer : CallAnswer) : ∃ s', poll answer s = .next s' := by
  cases hFull : s.mboxFull with
  | false => exact ⟨s, if_pos hFull⟩
  | true =>
    obtain ⟨payload, hBytes⟩ := mailboxBytes_of_inv h hFull
    exact ⟨_, poll_of_full hFull hBytes (h.mailbox hFull).1⟩

theorem handle_total {s : State} (h : s.Inv) (e : Event) : ∃ t, handle e s = .next t := by
  cases e with
  | reset => exact ⟨_, rfl⟩
  | regHandler cmd hid => exact ⟨_, rfl⟩
  | regForward cmd target => exact ⟨_, rfl⟩
  | rxByte b tick => exact rxByte_total h b tick
  | poll answer => exact poll_total h answer
  | push b => exact ⟨_, rfl⟩
  | pop tick => exact popByte_total h tick

/-! ### The statements -/

/-- Settles O48, by `step_idle`. -/
theorem idleKeepsAllState : Obligations.IdleKeepsAllState := fun _ hInputs => step_idle hInputs

/-- Settles O52: an idle step stays, and `handle_total` covers every event. -/
theorem stepNeverStops : Obligations.StepNeverStops := by
  intro s h
  cases hInputs : s.inputs with
  | nil => exact ⟨s, idleKeepsAllState s hInputs⟩
  | cons e rest =>
    rw [step_of_inputs hInputs]
    exact handle_total (withInputs_inv h rest) e

end Sys2Proof.Proofs

/-! SUPPORT. Noninterference: two states that agree off the elements 70_reset_and_hazards R262 lists as
unspecified step alike. One rule per register update, then the events, in the order of the model. -/

namespace Sys2Proof.Proofs

open Sys2Proof Sys2Proof.Machine

/-! ### Register updates -/

/-- What holds while a byte is received: the byte just stored makes the buffer non-empty, and
`last_activity` is written only at the end of the event (40_reassembler R105). -/
def AgreesButActivity (s t : State) : Prop := s.Agrees { t with lastActivity := s.lastActivity }

section

variable {s t : State}

theorem agreesButActivity_of_agrees (h : s.Agrees t) : AgreesButActivity s t :=
  { h with lastActivity := fun _ => rfl }

theorem emit_agrees (h : s.Agrees t) (es : List OutEvent) : (s.emit es).Agrees (t.emit es) :=
  { h with out := congrArg (· ++ es) h.out }

theorem emit_agreesButActivity (h : AgreesButActivity s t) (es : List OutEvent) :
    AgreesButActivity (s.emit es) (t.emit es) := emit_agrees h es

theorem withInputs_agrees (h : s.Agrees t) (es : List Event) :
    (s.withInputs es).Agrees (t.withInputs es) := { h with inputs := rfl }

theorem withFifo_agrees (h : s.Agrees t) (q : List Byte) : (s.withFifo q).Agrees (t.withFifo q) :=
  { h with rxFifo := rfl }

/-- With the buffer cleared no cell of it, and no time of it, is specified. -/
theorem clearBuffer_agrees (h : AgreesButActivity s t) : s.clearBuffer.Agrees t.clearBuffer :=
  { h with
    len := rfl
    headerValidated := rfl
    buf := nofun
    lastActivity := fun hLen => absurd rfl hLen }

/-- The stored byte is the one cell that becomes specified. -/
theorem storeByte_agrees (h : s.Agrees t) (b : Byte) (hRoom : s.len.toNat < capacity s.cfg) :
    AgreesButActivity (s.storeByte b) (t.storeByte b) :=
  { h with
    len := congrArg (· + 1) h.len
    lastActivity := fun _ => rfl
    buf := fun i hi => by
      rw [storeByte_len_toNat b hRoom] at hi
      show (t.buf.write t.len.toNat b).read i = (s.buf.write s.len.toNat b).read i
      rw [h.len, Memory.read_write, Memory.read_write]
      split
      · rfl
      · exact h.buf i (by omega) }

theorem validateHeader_agrees (h : AgreesButActivity s t) :
    AgreesButActivity s.validateHeader t.validateHeader := { h with headerValidated := rfl }

theorem moreData_agrees (h : AgreesButActivity s t) (tick : Nat) :
    (moreData tick s).Agrees (moreData tick t) := by
  have hCfg : t.cfg = s.cfg := h.cfg
  exact { emit_agrees h [.rxOutcome .more] with
    lastActivity := fun _ => congrArg (fun c => tick % 2 ^ c.tickW) hCfg }

/-- A fill specifies the cells of the payload, and those the same in both. -/
theorem fillMailbox_agrees (h : s.Agrees t) (cmd : Byte) (payload : List Byte) :
    (s.fillMailbox cmd payload).Agrees (t.fillMailbox cmd payload) :=
  { h with
    mboxFull := rfl
    mailbox := fun _ => ⟨rfl, rfl, fun i hi => by
      have hPayload : i < payload.length := by
        rw [fillMailbox_mboxLen, BitVec.toNat_ofNat] at hi
        exact hi.trans_le (Nat.mod_le _ _)
      rw [fillMailbox_mboxData, fillMailbox_mboxData, Memory.read_writeBytes, Memory.read_writeBytes,
        if_pos (by omega), if_pos (by omega)]⟩ }

theorem emptyMailbox_agrees (h : s.Agrees t) : s.emptyMailbox.Agrees t.emptyMailbox :=
  { h with mboxFull := rfl, mailbox := nofun }

/-- A send reads the configuration and the transport's answers only. -/
theorem sendResponse_agrees (h : s.Agrees t) (status : Byte) (payload : List Byte) :
    (sendResponse status payload s).Agrees (sendResponse status payload t) :=
  { h with
    out := by rw [sendResponse_out, sendResponse_out, h.cfg, h.txAnswers, h.out]
    txAnswers := by rw [sendResponse_txAnswers, sendResponse_txAnswers, h.cfg, h.txAnswers] }

/-- Tokens that agree under the valid bits agree after the same entry was written into both tables. -/
theorem set_agrees {α : Type} {valid : Vector Bool cmdMax} {table table' : Vector α cmdMax} {cmd : Nat}
    (hCmd : cmd < cmdMax) (x : α)
    (h : ∀ c (hc : c < cmdMax), valid[c] = true → table'[c] = table[c]) :
    ∀ c (hc : c < cmdMax), (valid.set cmd true hCmd)[c] = true →
      (table'.set cmd x hCmd)[c] = (table.set cmd x hCmd)[c] := by
  intro c hc hValid
  rw [getElem_set_entry _ _ hCmd hc] at hValid
  rw [getElem_set_entry _ _ hCmd hc, getElem_set_entry _ _ hCmd hc]
  split
  · rfl
  · exact h c hc (by rwa [if_neg ‹_›] at hValid)

theorem setHandler_agrees (h : s.Agrees t) {cmd : Nat} (hCmd : cmd < cmdMax) (hid : HandlerId) :
    (s.setHandler cmd hCmd hid).Agrees (t.setHandler cmd hCmd hid) :=
  { h with
    handlerValid := congrArg (·.set cmd true hCmd) h.handlerValid
    handlerId := set_agrees hCmd hid h.handlerId }

theorem setForward_agrees (h : s.Agrees t) {cmd : Nat} (hCmd : cmd < cmdMax) (target : CtxId) :
    (s.setForward cmd hCmd target).Agrees (t.setForward cmd hCmd target) :=
  { h with
    fwdValid := congrArg (·.set cmd true hCmd) h.fwdValid
    fwdTarget := set_agrees hCmd target h.fwdTarget }

/-! ### The two ends of a frame -/

theorem raiseError_agrees (h : AgreesButActivity s t) (e : FrameError) :
    (raiseError e s).Agrees (raiseError e t) :=
  emit_agrees (sendResponse_agrees (emit_agrees (clearBuffer_agrees h) _) _ _) _

theorem submit_agrees (h : s.Agrees t) (cmd : Byte) (payload : List Byte) :
    (submit cmd payload s).Agrees (submit cmd payload t) := by
  unfold submit
  rw [h.mboxFull]
  split
  · exact emit_agrees h _
  · exact fillMailbox_agrees h cmd payload

theorem acceptFrame_agrees (h : AgreesButActivity s t) (dir : Direction) (selector : Byte)
    (payload : List Byte) :
    (acceptFrame dir selector payload s).Agrees (acceptFrame dir selector payload t) := by
  cases dir with
  | request => exact emit_agrees (submit_agrees (clearBuffer_agrees h) selector payload) _
  | response => exact emit_agrees (emit_agrees (clearBuffer_agrees h) _) _

/-- The tests of a frame read its operands and the configuration only. -/
theorem runFrame_agrees (h : AgreesButActivity s t) (dir : Direction) (selector : Byte) (tail : Tail) :
    (runFrame dir selector tail s).Agrees (runFrame dir selector tail t) := by
  have hCfg : t.cfg = s.cfg := h.cfg
  cases tail with
  | oversize size => exact raiseError_agrees h .dataTooLarge
  | complete payload checksum footer =>
    simp only [runFrame, hCfg]
    split
    · exact raiseError_agrees h .dataTooLarge
    · split
      · exact raiseError_agrees h .invalidFooter
      · cases checksumCheck s.cfg (coveredBytes s.cfg dir.magic selector payload) checksum with
        | mismatch =>
          dsimp only
          split
          · exact raiseError_agrees h .invalidData
          · exact acceptFrame_agrees (emit_agreesButActivity h _) dir selector payload
        | matched => exact acceptFrame_agrees h dir selector payload
        | notPresent => exact acceptFrame_agrees h dir selector payload

/-! ### A received byte -/

/-- Both results are next states, and these agree. -/
def NextsAgree (r r' : Result) : Prop := ∃ s' t', r = .next s' ∧ r' = .next t' ∧ s'.Agrees t'

theorem nextsAgree_next (h : s.Agrees t) : NextsAgree (.next s) (.next t) := ⟨s, t, rfl, rfl, h⟩

/-- An instruction does the same thing in every state: `REQ.illegal` raises its error, every other is
the frame of its own operands. -/
theorem exec_by_instr (i : Instr) :
    (∀ u, exec i u = .next (raiseError .invalidCommand u)) ∨
      ∀ u, exec i u = .next (runFrame i.head.1 i.head.2 i.tail u) := by
  cases i with
  | reqIllegal selector size => exact .inl fun _ => rfl
  | _ => exact .inr fun _ => rfl

theorem exec_nextsAgree (h : AgreesButActivity s t) (i : Instr) : NextsAgree (exec i s) (exec i t) := by
  obtain hExec | hExec := exec_by_instr i <;> rw [hExec, hExec]
  · exact nextsAgree_next (raiseError_agrees h .invalidCommand)
  · exact nextsAgree_next (runFrame_agrees h i.head.1 i.head.2 i.tail)

/-- Bytes read below the fill position are the same in both. -/
theorem bufBytes_agrees (h : AgreesButActivity s t) {n : Nat} (hn : n ≤ s.len.toNat) :
    t.bufBytes n = s.bufBytes n := by
  have hCells : t.buf.readBytes 0 n = s.buf.readBytes 0 n := Memory.readBytes_congr fun i hi => by
    rw [Nat.zero_add]
    exact h.buf i (hi.trans_le hn)
  simp only [State.bufBytes, hCells]

theorem header_agrees (h : AgreesButActivity s t) (hLen : headerSize ≤ s.len.toNat)
    {v : HeaderVerdict} (hHeader : s.header = some v) : t.header = some v := by
  obtain ⟨hdr, hBytes, hJudge⟩ := header_eq_some.mp hHeader
  have hCfg : t.cfg = s.cfg := h.cfg
  exact header_eq_some.mpr ⟨hdr, (bufBytes_agrees h hLen).trans hBytes, by rw [hCfg, hJudge]⟩

/-- Over a legal header both wait for more, or both run the frame that the header dictates. -/
theorem completionCheck_nextsAgree {tick : Nat} {dir : Direction} {selector : Byte} {size : Half}
    (h : AgreesButActivity s t) (hInv : InvButHeader s) (hVal : s.headerValidated = true)
    (hLen : headerSize ≤ s.len.toNat) (hHeader : s.header = some (.legal dir selector size)) :
    NextsAgree (completionCheck tick s) (completionCheck tick t) := by
  have hCfg : t.cfg = s.cfg := h.cfg
  have hLenEq : t.len = s.len := h.len
  have hVal' : t.headerValidated = true := h.headerValidated.trans hVal
  have hHeader' := header_agrees h hLen hHeader
  obtain hShort | hWhole := Nat.lt_or_ge s.len.toNat (frameLength s.cfg size.toNat)
  · rw [completionCheck_of_incomplete hVal hHeader hShort,
      completionCheck_of_incomplete hVal' hHeader' (by rwa [hCfg, hLenEq])]
    exact nextsAgree_next (moreData_agrees h tick)
  · obtain ⟨bytes, hBytes, -⟩ := bufBytes_of_written hInv.bufWritten hWhole
    have hBytes' := (bufBytes_agrees h hWhole).trans hBytes
    rw [completionCheck_of_whole hVal hHeader hWhole hBytes,
      completionCheck_of_whole hVal' hHeader' (by rwa [hCfg, hLenEq]) (by rwa [hCfg]), hCfg]
    exact exec_nextsAgree h _

/-- The tests after a store, by the phase, as in `headerCheck_inv`: below seven bytes no cell is read. -/
theorem headerCheck_nextsAgree {tick : Nat} (h : AgreesButActivity s t) (hInv : InvButHeader s)
    (hHeader : s.headerValidated = true → headerSize ≤ s.len.toNat ∧
      ∃ dir selector size, s.header = some (.legal dir selector size)) :
    NextsAgree (headerCheck tick s) (headerCheck tick t) := by
  have hCfg : t.cfg = s.cfg := h.cfg
  have hLenEq : t.len = s.len := h.len
  have hValEq : t.headerValidated = s.headerValidated := h.headerValidated
  cases hVal : s.headerValidated with
  | true =>
    obtain ⟨hLen, dir, selector, size, hLegal⟩ := hHeader hVal
    rw [headerCheck_validated hVal, headerCheck_validated (hValEq.trans hVal)]
    exact completionCheck_nextsAgree h hInv hVal hLen hLegal
  | false =>
    obtain hShort | hLen := Nat.lt_or_ge s.len.toNat headerSize
    · rw [headerCheck_short hVal hShort, headerCheck_short (hValEq.trans hVal) (by rwa [hLenEq])]
      exact nextsAgree_next (moreData_agrees h tick)
    · obtain ⟨hdr, hBytes⟩ := bufBytes_header hInv hLen
      rw [headerCheck_seven hVal hLen hBytes, headerCheck_seven (hValEq.trans hVal) (by rwa [hLenEq])
        ((bufBytes_agrees h hLen).trans hBytes), hCfg]
      cases hJudge : judgeHeader s.cfg hdr with
      | badMagic => exact nextsAgree_next (raiseError_agrees h .invalidHeader)
      | badCommand selector size => exact exec_nextsAgree h _
      | tooLarge dir selector size => exact exec_nextsAgree h _
      | legal dir selector size =>
        exact completionCheck_nextsAgree (validateHeader_agrees h)
          ⟨hInv.cleared, hInv.bufWritten, hInv.lenBound⟩ rfl hLen
          (header_eq_some.mpr ⟨hdr, hBytes, hJudge⟩)

/-- The staleness test reads `last_activity` of a non-empty buffer only. -/
theorem stale_agrees (h : s.Agrees t) (tick : Nat) : t.stale tick = s.stale tick := by
  by_cases hLen : s.len = 0
  · rw [stale_of_empty hLen, stale_of_empty (h.len.trans hLen)]
  · rw [State.stale, State.stale, h.len, h.cfg, h.lastActivity hLen]

theorem staleCheck_agrees (h : s.Agrees t) (tick : Nat) :
    (staleCheck tick s).Agrees (staleCheck tick t) := by
  unfold staleCheck
  rw [stale_agrees h]
  split
  · exact emit_agrees (clearBuffer_agrees (agreesButActivity_of_agrees h)) _
  · exact h

/-- A received byte that there is room for behind the staleness test. -/
theorem rxByte_of_room_staleCheck {b : Byte} {tick : Nat}
    (hRoom : (staleCheck tick s).len.toNat < capacity (staleCheck tick s).cfg) :
    rxByte b tick s = headerCheck tick ((staleCheck tick s).storeByte b) := by
  simp only [rxByte, appendByte_eq_some.mpr ⟨hRoom, rfl⟩]

theorem rxByte_nextsAgree (hInv : s.Inv) (h : s.Agrees t) (b : Byte) (tick : Nat) :
    NextsAgree (rxByte b tick s) (rxByte b tick t) := by
  have hFresh := staleCheck_inv hInv tick
  have hAgrees := staleCheck_agrees h tick
  have hRoom := room_of_inv hFresh
  rw [rxByte_of_room_staleCheck hRoom,
    rxByte_of_room_staleCheck (by rwa [hAgrees.len, hAgrees.cfg])]
  refine headerCheck_nextsAgree (storeByte_agrees hAgrees b hRoom)
    (storeByte_invButHeader hFresh b hRoom) fun hVal => ⟨?_, storeByte_header_legal hFresh b hVal⟩
  have hLen : headerSize ≤ (staleCheck tick s).len.toNat :=
    of_decide_eq_true (hFresh.validated.symm.trans hVal)
  rw [storeByte_len_toNat b hRoom]
  omega

theorem popByte_nextsAgree (hInv : s.Inv) (h : s.Agrees t) (tick : Nat) :
    NextsAgree (popByte tick s) (popByte tick t) := by
  cases hFifo : s.rxFifo with
  | nil =>
    rw [popByte_of_empty tick hFifo, popByte_of_empty tick (h.rxFifo.trans hFifo)]
    exact nextsAgree_next h
  | cons b q =>
    have hDepth := hInv.fifo
    rw [hFifo, List.length_cons] at hDepth
    rw [popByte_of_cons tick hFifo, popByte_of_cons tick (h.rxFifo.trans hFifo)]
    exact rxByte_nextsAgree (withFifo_inv hInv (by omega)) (withFifo_agrees h q) b tick

/-! ### A poll -/

theorem mailboxBytes_agrees (h : s.Agrees t) (hFull : s.mboxFull = true) :
    t.mailboxBytes = s.mailboxBytes := by
  obtain ⟨-, hLen, hCells⟩ := h.mailbox hFull
  have hBytes : t.mboxData.readBytes 0 s.mboxLen.toNat = s.mboxData.readBytes 0 s.mboxLen.toNat :=
    Memory.readBytes_congr fun i hi => by
      rw [Nat.zero_add]
      exact hCells i hi
  simp only [State.mailboxBytes, hLen, hBytes]

/-- The multiplexer emits a token only under its valid bit. -/
theorem resolve_agrees (h : s.Agrees t) (cmd : Nat) (hCmd : cmd < cmdMax) (payload : List Byte)
    (answer : CallAnswer) : resolve t cmd hCmd payload answer = resolve s cmd hCmd payload answer := by
  have hForward : t.fwdValid[cmd] = s.fwdValid[cmd] := by rw [h.fwdValid]
  have hHandler : t.handlerValid[cmd] = s.handlerValid[cmd] := by rw [h.handlerValid]
  obtain ⟨hEn, hValid, hRes⟩ | ⟨hNone, hValid, hRes⟩ | ⟨hNone, hInvalid, hRes⟩ :=
    resolve_cases s cmd hCmd payload answer <;> rw [hRes]
  · rw [resolve_of_forward (by rwa [h.cfg]) (hForward.trans hValid), h.fwdTarget cmd hCmd hValid]
  · rw [resolve_of_handler (by rwa [h.cfg, hForward]) (hHandler.trans hValid),
      h.handlerId cmd hCmd hValid]
  · exact resolve_of_none (by rwa [h.cfg, hForward]) (hHandler.trans hInvalid)

theorem dispatch_agrees (h : s.Agrees t) (cmd : Nat) (hCmd : cmd < cmdMax) (payload : List Byte)
    (answer : CallAnswer) :
    (dispatch cmd hCmd payload answer s).Agrees (dispatch cmd hCmd payload answer t) := by
  unfold dispatch
  rw [resolve_agrees h, h.cfg]
  exact sendResponse_agrees (emit_agrees (emptyMailbox_agrees h) _) _ _

theorem poll_nextsAgree (hInv : s.Inv) (h : s.Agrees t) (answer : CallAnswer) :
    NextsAgree (poll answer s) (poll answer t) := by
  cases hFull : s.mboxFull with
  | false =>
    rw [poll, poll, if_pos hFull, if_pos (h.mboxFull.trans hFull)]
    exact nextsAgree_next h
  | true =>
    obtain ⟨payload, hBytes⟩ := mailboxBytes_of_inv hInv hFull
    obtain ⟨hCmd, -⟩ := hInv.mailbox hFull
    obtain ⟨hCmdEq, -⟩ := h.mailbox hFull
    rw [poll_of_full hFull hBytes hCmd, poll_of_full (h.mboxFull.trans hFull)
      ((mailboxBytes_agrees h hFull).trans hBytes) (by rwa [hCmdEq])]
    simp only [hCmdEq]
    exact nextsAgree_next (dispatch_agrees h _ hCmd payload answer)

/-! ### Every event -/

theorem regHandler_agrees (h : s.Agrees t) (cmd : Byte) (hid : HandlerId) :
    (regHandler cmd hid s).Agrees (regHandler cmd hid t) := by
  unfold regHandler
  split
  · exact setHandler_agrees h _ hid
  · exact emit_agrees h _

theorem regForward_agrees (h : s.Agrees t) (cmd : Byte) (target : CtxId) :
    (regForward cmd target s).Agrees (regForward cmd target t) := by
  unfold regForward
  split
  · exact setForward_agrees h _ target
  · exact emit_agrees h _

theorem pushByte_agrees (h : s.Agrees t) (b : Byte) : (pushByte b s).Agrees (pushByte b t) := by
  unfold pushByte
  rw [h.rxFifo, h.cfg]
  split
  · exact withFifo_agrees h _
  · exact emit_agrees h _

/-- A `RESET` reads the configuration and the elements that are not the block's own state. -/
theorem resetContext_eq_of_agrees (h : s.Agrees t) : resetContext t = resetContext s := by
  rw [resetContext, resetContext, h.cfg, h.rxFifo, h.inputs, h.txAnswers]

theorem agrees_refl (s : State) : s.Agrees s := by
  constructor <;> simp

theorem handle_nextsAgree (hInv : s.Inv) (h : s.Agrees t) (e : Event) :
    NextsAgree (handle e s) (handle e t) := by
  cases e with
  | reset => exact ⟨_, _, rfl, rfl, resetContext_eq_of_agrees h ▸ agrees_refl _⟩
  | regHandler cmd hid => exact nextsAgree_next (regHandler_agrees h cmd hid)
  | regForward cmd target => exact nextsAgree_next (regForward_agrees h cmd target)
  | rxByte b tick => exact rxByte_nextsAgree hInv h b tick
  | poll answer => exact poll_nextsAgree hInv h answer
  | push b => exact nextsAgree_next (pushByte_agrees h b)
  | pop tick => exact popByte_nextsAgree hInv h tick

theorem step_nextsAgree (hInv : s.Inv) (h : s.Agrees t) : NextsAgree (step s) (step t) := by
  cases hInputs : s.inputs with
  | nil =>
    rw [step_idle hInputs, step_idle (h.inputs.trans hInputs)]
    exact nextsAgree_next h
  | cons e rest =>
    rw [step_of_inputs hInputs, step_of_inputs (h.inputs.trans hInputs)]
    exact handle_nextsAgree (withInputs_inv hInv rest) (withInputs_agrees h rest) e

end

/-! ### The statements -/

/-- Settles O53, by `step_nextsAgree`: both states step, and to states that agree. -/
theorem unspecifiedValuesAreNeverRead : Obligations.UnspecifiedValuesAreNeverRead := by
  intro s t s' hInv h hStep
  obtain ⟨u, t', hNext, hNext', hAgrees⟩ := step_nextsAgree hInv h
  obtain rfl := Host.Outcome.next.inj (hStep.symm.trans hNext)
  exact ⟨t', hNext', hAgrees⟩

/-- Settles O47: a `RESET` gives the context created with the same configuration. -/
theorem resetEventDiscardsEverything : Obligations.ResetEventDiscardsEverything := by
  intro s rest hInputs
  exact ⟨resetContext (s.withInputs rest), step_of_inputs hInputs, rfl, rfl, rfl,
    fun _ h => created_tables s.cfg h, rfl, rfl, rfl⟩

end Sys2Proof.Proofs
